-- ==== Sys2Proof/Word.lean ====
section
/-! DEFINITION. The machine's word types: bytes, halfwords and 32-bit words (00_scope.md R5, R8; 10_state.md R35).
Everything a test could show wrong (slices, extensions, rotations, masks) stands in `Sys2Proof/Machine/Bits.lean`. -/

namespace Sys2Proof

/-- A byte of memory: 8 bits (20_memory.md R60). -/
abbrev Byte := BitVec 8

/-- A halfword: 16 bits, the width of the immediates and of halfword accesses. -/
abbrev Half := BitVec 16

/-- A word: 32 bits, the width of every register, of an address and of an instruction (00_scope.md R5). -/
abbrev Word := BitVec 32

end Sys2Proof
end

