-- ==== Sys2Proof/Syntax.lean ====
section
/-! DEFINITION. The syntax: one constructor per row of spec/opcode_table.json, 177 in all (00_scope.md R2).
Operands stand in assembler order (30_encoding.md R127), as the fields of 30_encoding.md R91; a name ending in `Rc`
is the record form (suffix `.`), `o` the overflow-recording form. Two operands are held decoded: the SPR number after
the 5-bit swap (R113) and the byte count of `lswi`/`stswi` after the reading of 0 as 32 (R115). -/

namespace Sys2Proof

/-- The number of a general register, 0 to 31 (10_state.md R20). -/
abbrev Reg := BitVec 5

/-- The number of a CR field, 0 to 7 (30_encoding.md R118). -/
abbrev CrField := BitVec 3

/-- The MSB-first number of a CR bit, 0 to 31 (30_encoding.md R117, R118). -/
abbrev CrBit := BitVec 5

/-- The 177 instructions of the core. -/
inductive Instr where
  -- 41_branch.md
  /-- `b target`: branch relative (unconditional shape of rule R154) (R156). -/
  | b (li : BitVec 24)
  /-- `ba target`: branch absolute (unconditional shape of rule R154) (R157). -/
  | ba (li : BitVec 24)
  /-- `bl target`: branch relative and link (unconditional shape of rule R154) (R158). -/
  | bl (li : BitVec 24)
  /-- `bla target`: branch absolute and link (unconditional shape of rule R154) (R159). -/
  | bla (li : BitVec 24)
  /-- `bc BO,BI,target`: branch conditional relative (BO/BI-conditioned displacement shape of rule R154) (R160). -/
  | bc (bo : BitVec 5) (bi : CrBit) (bd : BitVec 14)
  /-- `bca BO,BI,target`: branch conditional absolute (BO/BI-conditioned displacement shape of rule R154) (R161). -/
  | bca (bo : BitVec 5) (bi : CrBit) (bd : BitVec 14)
  /-- `bcl BO,BI,target`: branch conditional relative and link (BO/BI-conditioned displacement shape of rule R154) (R162). -/
  | bcl (bo : BitVec 5) (bi : CrBit) (bd : BitVec 14)
  /-- `bcla BO,BI,target`: branch conditional absolute and link (BO/BI-conditioned displacement shape of rule R154) (R163). -/
  | bcla (bo : BitVec 5) (bi : CrBit) (bd : BitVec 14)
  /-- `bclr BO,BI`: branch conditional to link register (rule R154) (R164). -/
  | bclr (bo : BitVec 5) (bi : CrBit)
  /-- `bclrl BO,BI`: branch conditional to link register and link (rule R154) (R165). -/
  | bclrl (bo : BitVec 5) (bi : CrBit)
  /-- `bcctr BO,BI`: branch conditional to count register (rule R154) (R166). -/
  | bcctr (bo : BitVec 5) (bi : CrBit)
  /-- `bcctrl BO,BI`: branch conditional to count register and link (rule R154) (R167). -/
  | bcctrl (bo : BitVec 5) (bi : CrBit)
  -- 42_add_sub.md
  /-- `add rD,rA,rB`: add (R172). -/
  | add (rD rA rB : Reg)
  /-- `add. rD,rA,rB`: add, record form (R173). -/
  | addRc (rD rA rB : Reg)
  /-- `addo rD,rA,rB`: add, with overflow recording (R174). -/
  | addo (rD rA rB : Reg)
  /-- `addo. rD,rA,rB`: add, with overflow recording, record form (R175). -/
  | addoRc (rD rA rB : Reg)
  /-- `addc rD,rA,rB`: add carrying (R176). -/
  | addc (rD rA rB : Reg)
  /-- `addc. rD,rA,rB`: add carrying, record form (R177). -/
  | addcRc (rD rA rB : Reg)
  /-- `addco rD,rA,rB`: add carrying, with overflow recording (R178). -/
  | addco (rD rA rB : Reg)
  /-- `addco. rD,rA,rB`: add carrying, with overflow recording, record form (R179). -/
  | addcoRc (rD rA rB : Reg)
  /-- `adde rD,rA,rB`: add extended (adds the incoming carry) (R180). -/
  | adde (rD rA rB : Reg)
  /-- `adde. rD,rA,rB`: add extended (adds the incoming carry), record form (R181). -/
  | addeRc (rD rA rB : Reg)
  /-- `addeo rD,rA,rB`: add extended (adds the incoming carry), with overflow recording (R182). -/
  | addeo (rD rA rB : Reg)
  /-- `addeo. rD,rA,rB`: add extended (adds the incoming carry), with overflow recording, record form (R183). -/
  | addeoRc (rD rA rB : Reg)
  /-- `addme rD,rA`: add to minus one extended (R184). -/
  | addme (rD rA : Reg)
  /-- `addme. rD,rA`: add to minus one extended, record form (R185). -/
  | addmeRc (rD rA : Reg)
  /-- `addmeo rD,rA`: add to minus one extended, with overflow recording (R186). -/
  | addmeo (rD rA : Reg)
  /-- `addmeo. rD,rA`: add to minus one extended, with overflow recording, record form (R187). -/
  | addmeoRc (rD rA : Reg)
  /-- `addze rD,rA`: add to zero extended (R188). -/
  | addze (rD rA : Reg)
  /-- `addze. rD,rA`: add to zero extended, record form (R189). -/
  | addzeRc (rD rA : Reg)
  /-- `addzeo rD,rA`: add to zero extended, with overflow recording (R190). -/
  | addzeo (rD rA : Reg)
  /-- `addzeo. rD,rA`: add to zero extended, with overflow recording, record form (R191). -/
  | addzeoRc (rD rA : Reg)
  /-- `subf rD,rA,rB`: subtract from (rB minus rA) (R192). -/
  | subf (rD rA rB : Reg)
  /-- `subf. rD,rA,rB`: subtract from (rB minus rA), record form (R193). -/
  | subfRc (rD rA rB : Reg)
  /-- `subfo rD,rA,rB`: subtract from (rB minus rA), with overflow recording (R194). -/
  | subfo (rD rA rB : Reg)
  /-- `subfo. rD,rA,rB`: subtract from (rB minus rA), with overflow recording, record form (R195). -/
  | subfoRc (rD rA rB : Reg)
  /-- `subfc rD,rA,rB`: subtract from carrying (rB minus rA) (R196). -/
  | subfc (rD rA rB : Reg)
  /-- `subfc. rD,rA,rB`: subtract from carrying (rB minus rA), record form (R197). -/
  | subfcRc (rD rA rB : Reg)
  /-- `subfco rD,rA,rB`: subtract from carrying (rB minus rA), with overflow recording (R198). -/
  | subfco (rD rA rB : Reg)
  /-- `subfco. rD,rA,rB`: subtract from carrying (rB minus rA), with overflow recording, record form (R199). -/
  | subfcoRc (rD rA rB : Reg)
  /-- `subfe rD,rA,rB`: subtract from extended (R200). -/
  | subfe (rD rA rB : Reg)
  /-- `subfe. rD,rA,rB`: subtract from extended, record form (R201). -/
  | subfeRc (rD rA rB : Reg)
  /-- `subfeo rD,rA,rB`: subtract from extended, with overflow recording (R202). -/
  | subfeo (rD rA rB : Reg)
  /-- `subfeo. rD,rA,rB`: subtract from extended, with overflow recording, record form (R203). -/
  | subfeoRc (rD rA rB : Reg)
  /-- `subfme rD,rA`: subtract from minus one extended (R204). -/
  | subfme (rD rA : Reg)
  /-- `subfme. rD,rA`: subtract from minus one extended, record form (R205). -/
  | subfmeRc (rD rA : Reg)
  /-- `subfmeo rD,rA`: subtract from minus one extended, with overflow recording (R206). -/
  | subfmeo (rD rA : Reg)
  /-- `subfmeo. rD,rA`: subtract from minus one extended, with overflow recording, record form (R207). -/
  | subfmeoRc (rD rA : Reg)
  /-- `subfze rD,rA`: subtract from zero extended (R208). -/
  | subfze (rD rA : Reg)
  /-- `subfze. rD,rA`: subtract from zero extended, record form (R209). -/
  | subfzeRc (rD rA : Reg)
  /-- `subfzeo rD,rA`: subtract from zero extended, with overflow recording (R210). -/
  | subfzeo (rD rA : Reg)
  /-- `subfzeo. rD,rA`: subtract from zero extended, with overflow recording, record form (R211). -/
  | subfzeoRc (rD rA : Reg)
  /-- `neg rD,rA`: negate (two's complement) (R212). -/
  | neg (rD rA : Reg)
  /-- `neg. rD,rA`: negate (two's complement), record form (R213). -/
  | negRc (rD rA : Reg)
  /-- `nego rD,rA`: negate (two's complement), with overflow recording (R214). -/
  | nego (rD rA : Reg)
  /-- `nego. rD,rA`: negate (two's complement), with overflow recording, record form (R215). -/
  | negoRc (rD rA : Reg)
  /-- `addi rD,rA,SIMM`: add immediate (R216). -/
  | addi (rD rA : Reg) (simm : BitVec 16)
  /-- `addis rD,rA,SIMM`: add immediate shifted (R217). -/
  | addis (rD rA : Reg) (simm : BitVec 16)
  /-- `addic rD,rA,SIMM`: add immediate carrying (R218). -/
  | addic (rD rA : Reg) (simm : BitVec 16)
  /-- `addic. rD,rA,SIMM`: add immediate carrying and record (R219). -/
  | addicRc (rD rA : Reg) (simm : BitVec 16)
  /-- `subfic rD,rA,SIMM`: subtract from immediate carrying (SIMM minus rA) (R220). -/
  | subfic (rD rA : Reg) (simm : BitVec 16)
  -- 43_mul_div_cmp.md
  /-- `mullw rD,rA,rB`: multiply low word (R233). -/
  | mullw (rD rA rB : Reg)
  /-- `mullw. rD,rA,rB`: multiply low word, record form (R234). -/
  | mullwRc (rD rA rB : Reg)
  /-- `mullwo rD,rA,rB`: multiply low word, with overflow recording (R235). -/
  | mullwo (rD rA rB : Reg)
  /-- `mullwo. rD,rA,rB`: multiply low word, with overflow recording, record form (R236). -/
  | mullwoRc (rD rA rB : Reg)
  /-- `mulhw rD,rA,rB`: multiply high word (R237). -/
  | mulhw (rD rA rB : Reg)
  /-- `mulhw. rD,rA,rB`: multiply high word, record form (R238). -/
  | mulhwRc (rD rA rB : Reg)
  /-- `mulhwu rD,rA,rB`: multiply high word unsigned (R239). -/
  | mulhwu (rD rA rB : Reg)
  /-- `mulhwu. rD,rA,rB`: multiply high word unsigned, record form (R240). -/
  | mulhwuRc (rD rA rB : Reg)
  /-- `mulli rD,rA,SIMM`: multiply low immediate (R241). -/
  | mulli (rD rA : Reg) (simm : BitVec 16)
  /-- `divw rD,rA,rB`: divide word (rA divided by rB) (R242). -/
  | divw (rD rA rB : Reg)
  /-- `divw. rD,rA,rB`: divide word, record form (rA divided by rB) (R243). -/
  | divwRc (rD rA rB : Reg)
  /-- `divwo rD,rA,rB`: divide word, with overflow recording (rA divided by rB) (R244). -/
  | divwo (rD rA rB : Reg)
  /-- `divwo. rD,rA,rB`: divide word, with overflow recording, record form (rA divided by rB) (R245). -/
  | divwoRc (rD rA rB : Reg)
  /-- `divwu rD,rA,rB`: divide word unsigned (rA divided by rB) (R246). -/
  | divwu (rD rA rB : Reg)
  /-- `divwu. rD,rA,rB`: divide word unsigned, record form (rA divided by rB) (R247). -/
  | divwuRc (rD rA rB : Reg)
  /-- `divwuo rD,rA,rB`: divide word unsigned, with overflow recording (rA divided by rB) (R248). -/
  | divwuo (rD rA rB : Reg)
  /-- `divwuo. rD,rA,rB`: divide word unsigned, with overflow recording, record form (rA divided by rB) (R249). -/
  | divwuoRc (rD rA rB : Reg)
  /-- `cmp crfD,L,rA,rB`: compare (R250). -/
  | cmp (crfD : CrField) (l : BitVec 1) (rA rB : Reg)
  /-- `cmpi crfD,L,rA,SIMM`: compare immediate (R251). -/
  | cmpi (crfD : CrField) (l : BitVec 1) (rA : Reg) (simm : BitVec 16)
  /-- `cmpl crfD,L,rA,rB`: compare logical (unsigned) (R252). -/
  | cmpl (crfD : CrField) (l : BitVec 1) (rA rB : Reg)
  /-- `cmpli crfD,L,rA,UIMM`: compare logical (unsigned) immediate (R253). -/
  | cmpli (crfD : CrField) (l : BitVec 1) (rA : Reg) (uimm : BitVec 16)
  -- 44_logical.md
  /-- `and rA,rS,rB`: aND (R261). -/
  | and (rA rS rB : Reg)
  /-- `and. rA,rS,rB`: aND, record form (R262). -/
  | andRc (rA rS rB : Reg)
  /-- `andc rA,rS,rB`: aND with complement (R263). -/
  | andc (rA rS rB : Reg)
  /-- `andc. rA,rS,rB`: aND with complement, record form (R264). -/
  | andcRc (rA rS rB : Reg)
  /-- `eqv rA,rS,rB`: equivalent (XNOR) (R265). -/
  | eqv (rA rS rB : Reg)
  /-- `eqv. rA,rS,rB`: equivalent (XNOR), record form (R266). -/
  | eqvRc (rA rS rB : Reg)
  /-- `nand rA,rS,rB`: nAND (R267). -/
  | nand (rA rS rB : Reg)
  /-- `nand. rA,rS,rB`: nAND, record form (R268). -/
  | nandRc (rA rS rB : Reg)
  /-- `nor rA,rS,rB`: nOR (R269). -/
  | nor (rA rS rB : Reg)
  /-- `nor. rA,rS,rB`: nOR, record form (R270). -/
  | norRc (rA rS rB : Reg)
  /-- `or rA,rS,rB`: oR (R271). -/
  | or (rA rS rB : Reg)
  /-- `or. rA,rS,rB`: oR, record form (R272). -/
  | orRc (rA rS rB : Reg)
  /-- `orc rA,rS,rB`: oR with complement (R273). -/
  | orc (rA rS rB : Reg)
  /-- `orc. rA,rS,rB`: oR with complement, record form (R274). -/
  | orcRc (rA rS rB : Reg)
  /-- `xor rA,rS,rB`: xOR (R275). -/
  | xor (rA rS rB : Reg)
  /-- `xor. rA,rS,rB`: xOR, record form (R276). -/
  | xorRc (rA rS rB : Reg)
  /-- `andi. rA,rS,UIMM`: aND immediate (always records) (R277). -/
  | andiRc (rA rS : Reg) (uimm : BitVec 16)
  /-- `andis. rA,rS,UIMM`: aND immediate shifted (always records) (R278). -/
  | andisRc (rA rS : Reg) (uimm : BitVec 16)
  /-- `ori rA,rS,UIMM`: oR immediate (R279). -/
  | ori (rA rS : Reg) (uimm : BitVec 16)
  /-- `oris rA,rS,UIMM`: oR immediate shifted (R280). -/
  | oris (rA rS : Reg) (uimm : BitVec 16)
  /-- `xori rA,rS,UIMM`: xOR immediate (R281). -/
  | xori (rA rS : Reg) (uimm : BitVec 16)
  /-- `xoris rA,rS,UIMM`: xOR immediate shifted (R282). -/
  | xoris (rA rS : Reg) (uimm : BitVec 16)
  /-- `extsb rA,rS`: extend sign byte (R283). -/
  | extsb (rA rS : Reg)
  /-- `extsb. rA,rS`: extend sign byte, record form (R284). -/
  | extsbRc (rA rS : Reg)
  /-- `extsh rA,rS`: extend sign halfword (R285). -/
  | extsh (rA rS : Reg)
  /-- `extsh. rA,rS`: extend sign halfword, record form (R286). -/
  | extshRc (rA rS : Reg)
  /-- `cntlzw rA,rS`: count leading zeros word (R287). -/
  | cntlzw (rA rS : Reg)
  /-- `cntlzw. rA,rS`: count leading zeros word, record form (R288). -/
  | cntlzwRc (rA rS : Reg)
  -- 45_shift_rotate.md
  /-- `slw rA,rS,rB`: shift left word (R296). -/
  | slw (rA rS rB : Reg)
  /-- `slw. rA,rS,rB`: shift left word, record form (R297). -/
  | slwRc (rA rS rB : Reg)
  /-- `srw rA,rS,rB`: shift right word (R298). -/
  | srw (rA rS rB : Reg)
  /-- `srw. rA,rS,rB`: shift right word, record form (R299). -/
  | srwRc (rA rS rB : Reg)
  /-- `sraw rA,rS,rB`: shift right algebraic word (R300). -/
  | sraw (rA rS rB : Reg)
  /-- `sraw. rA,rS,rB`: shift right algebraic word, record form (R301). -/
  | srawRc (rA rS rB : Reg)
  /-- `srawi rA,rS,SH`: shift right algebraic word immediate (R302). -/
  | srawi (rA rS : Reg) (sh : BitVec 5)
  /-- `srawi. rA,rS,SH`: shift right algebraic word immediate, record form (R303). -/
  | srawiRc (rA rS : Reg) (sh : BitVec 5)
  /-- `rlwimi rA,rS,SH,MB,ME`: rotate left word immediate then mask insert (R304). -/
  | rlwimi (rA rS : Reg) (sh mb me : BitVec 5)
  /-- `rlwimi. rA,rS,SH,MB,ME`: rotate left word immediate then mask insert, record form (R305). -/
  | rlwimiRc (rA rS : Reg) (sh mb me : BitVec 5)
  /-- `rlwinm rA,rS,SH,MB,ME`: rotate left word immediate then AND with mask (R306). -/
  | rlwinm (rA rS : Reg) (sh mb me : BitVec 5)
  /-- `rlwinm. rA,rS,SH,MB,ME`: rotate left word immediate then AND with mask, record form (R307). -/
  | rlwinmRc (rA rS : Reg) (sh mb me : BitVec 5)
  /-- `rlwnm rA,rS,rB,MB,ME`: rotate left word then AND with mask (R308). -/
  | rlwnm (rA rS rB : Reg) (mb me : BitVec 5)
  /-- `rlwnm. rA,rS,rB,MB,ME`: rotate left word then AND with mask, record form (R309). -/
  | rlwnmRc (rA rS rB : Reg) (mb me : BitVec 5)
  -- 46_cr_logical.md
  /-- `crand crbD,crbA,crbB`: condition register AND (R316). -/
  | crand (crbD crbA crbB : CrBit)
  /-- `crandc crbD,crbA,crbB`: condition register ANDC (R317). -/
  | crandc (crbD crbA crbB : CrBit)
  /-- `creqv crbD,crbA,crbB`: condition register EQV (R318). -/
  | creqv (crbD crbA crbB : CrBit)
  /-- `crnand crbD,crbA,crbB`: condition register NAND (R319). -/
  | crnand (crbD crbA crbB : CrBit)
  /-- `crnor crbD,crbA,crbB`: condition register NOR (R320). -/
  | crnor (crbD crbA crbB : CrBit)
  /-- `cror crbD,crbA,crbB`: condition register OR (R321). -/
  | cror (crbD crbA crbB : CrBit)
  /-- `crorc crbD,crbA,crbB`: condition register ORC (R322). -/
  | crorc (crbD crbA crbB : CrBit)
  /-- `crxor crbD,crbA,crbB`: condition register XOR (R323). -/
  | crxor (crbD crbA crbB : CrBit)
  /-- `mcrf crfD,crfS`: move condition register field (R324). -/
  | mcrf (crfD crfS : CrField)
  -- 47_load.md
  /-- `lbz rD,D(rA)`: load byte and zero (R333). -/
  | lbz (rD rA : Reg) (d : BitVec 16)
  /-- `lbzx rD,rA,rB`: load byte and zero indexed (R334). -/
  | lbzx (rD rA rB : Reg)
  /-- `lbzu rD,D(rA)`: load byte and zero with update (R335). -/
  | lbzu (rD rA : Reg) (d : BitVec 16)
  /-- `lbzux rD,rA,rB`: load byte and zero with update indexed (R336). -/
  | lbzux (rD rA rB : Reg)
  /-- `lhz rD,D(rA)`: load halfword and zero (R337). -/
  | lhz (rD rA : Reg) (d : BitVec 16)
  /-- `lhzx rD,rA,rB`: load halfword and zero indexed (R338). -/
  | lhzx (rD rA rB : Reg)
  /-- `lhzu rD,D(rA)`: load halfword and zero with update (R339). -/
  | lhzu (rD rA : Reg) (d : BitVec 16)
  /-- `lhzux rD,rA,rB`: load halfword and zero with update indexed (R340). -/
  | lhzux (rD rA rB : Reg)
  /-- `lha rD,D(rA)`: load halfword algebraic (R341). -/
  | lha (rD rA : Reg) (d : BitVec 16)
  /-- `lhax rD,rA,rB`: load halfword algebraic indexed (R342). -/
  | lhax (rD rA rB : Reg)
  /-- `lhau rD,D(rA)`: load halfword algebraic with update (R343). -/
  | lhau (rD rA : Reg) (d : BitVec 16)
  /-- `lhaux rD,rA,rB`: load halfword algebraic with update indexed (R344). -/
  | lhaux (rD rA rB : Reg)
  /-- `lwz rD,D(rA)`: load word and zero (R345). -/
  | lwz (rD rA : Reg) (d : BitVec 16)
  /-- `lwzx rD,rA,rB`: load word and zero indexed (R346). -/
  | lwzx (rD rA rB : Reg)
  /-- `lwzu rD,D(rA)`: load word and zero with update (R347). -/
  | lwzu (rD rA : Reg) (d : BitVec 16)
  /-- `lwzux rD,rA,rB`: load word and zero with update indexed (R348). -/
  | lwzux (rD rA rB : Reg)
  /-- `lhbrx rD,rA,rB`: load halfword byte-reverse indexed (little-endian load) (R349). -/
  | lhbrx (rD rA rB : Reg)
  /-- `lwbrx rD,rA,rB`: load word byte-reverse indexed (little-endian load) (R350). -/
  | lwbrx (rD rA rB : Reg)
  /-- `lmw rD,D(rA)`: load multiple word (R351). -/
  | lmw (rD rA : Reg) (d : BitVec 16)
  /-- `lswi rD,rA,NB`: load string word immediate (R352). -/
  | lswi (rD rA : Reg) (n : Nat)
  /-- `lswx rD,rA,rB`: load string word indexed (R353). -/
  | lswx (rD rA rB : Reg)
  -- 48_store.md
  /-- `stb rS,D(rA)`: store byte (R361). -/
  | stb (rS rA : Reg) (d : BitVec 16)
  /-- `stbx rS,rA,rB`: store byte indexed (R362). -/
  | stbx (rS rA rB : Reg)
  /-- `stbu rS,D(rA)`: store byte with update (R363). -/
  | stbu (rS rA : Reg) (d : BitVec 16)
  /-- `stbux rS,rA,rB`: store byte with update indexed (R364). -/
  | stbux (rS rA rB : Reg)
  /-- `sth rS,D(rA)`: store halfword (R365). -/
  | sth (rS rA : Reg) (d : BitVec 16)
  /-- `sthx rS,rA,rB`: store halfword indexed (R366). -/
  | sthx (rS rA rB : Reg)
  /-- `sthu rS,D(rA)`: store halfword with update (R367). -/
  | sthu (rS rA : Reg) (d : BitVec 16)
  /-- `sthux rS,rA,rB`: store halfword with update indexed (R368). -/
  | sthux (rS rA rB : Reg)
  /-- `stw rS,D(rA)`: store word (R369). -/
  | stw (rS rA : Reg) (d : BitVec 16)
  /-- `stwx rS,rA,rB`: store word indexed (R370). -/
  | stwx (rS rA rB : Reg)
  /-- `stwu rS,D(rA)`: store word with update (R371). -/
  | stwu (rS rA : Reg) (d : BitVec 16)
  /-- `stwux rS,rA,rB`: store word with update indexed (R372). -/
  | stwux (rS rA rB : Reg)
  /-- `sthbrx rS,rA,rB`: store halfword byte-reverse indexed (little-endian store) (R373). -/
  | sthbrx (rS rA rB : Reg)
  /-- `stwbrx rS,rA,rB`: store word byte-reverse indexed (little-endian store) (R374). -/
  | stwbrx (rS rA rB : Reg)
  /-- `stmw rS,D(rA)`: store multiple word (R375). -/
  | stmw (rS rA : Reg) (d : BitVec 16)
  /-- `stswi rS,rA,NB`: store string word immediate (R376). -/
  | stswi (rS rA : Reg) (n : Nat)
  /-- `stswx rS,rA,rB`: store string word indexed (R377). -/
  | stswx (rS rA rB : Reg)
  -- 49_move_system.md
  /-- `mfspr rD,SPR`: move from special-purpose register (R386). -/
  | mfspr (rD : Reg) (n : Nat)
  /-- `mtspr SPR,rS`: move to special-purpose register (R387). -/
  | mtspr (n : Nat) (rS : Reg)
  /-- `mfcr rD`: move from condition register (R388). -/
  | mfcr (rD : Reg)
  /-- `mtcrf CRM,rS`: move to condition register fields (R389). -/
  | mtcrf (crm : BitVec 8) (rS : Reg)
  /-- `mcrxr crfD`: move to condition register from XER (R390). -/
  | mcrxr (crfD : CrField)
  /-- `sc`: system call (R391). -/
  | sc
  deriving DecidableEq, Repr

end Sys2Proof
end

