-- ==== Sys2Proof/WellFormed.lean ====
section
/-! DEFINITION. Which instruction terms stand for an encodable instruction: the operands whose type is wider than
what the encoding can hold are checked here. -/

namespace Sys2Proof

/-- The byte count of `lswi` and `stswi` is 1 to 32 (30_encoding.md R115: the field value 0 means 32). -/
def stringCountOk (n : Nat) : Bool := 1 ≤ n && n ≤ 32

/-- An SPR number has 10 bits (30_encoding.md R113). -/
def sprNumberOk (n : Nat) : Bool := n < 1024

/-- The instruction has an encoding. Every other operand's type holds exactly the values its field admits. -/
def Instr.wf : Instr → Bool
  | .lswi _ _ n => stringCountOk n
  | .stswi _ _ n => stringCountOk n
  | .mfspr _ n => sprNumberOk n
  | .mtspr n _ => sprNumberOk n
  | .b _ => true
  | .ba _ => true
  | .bl _ => true
  | .bla _ => true
  | .bc _ _ _ => true
  | .bca _ _ _ => true
  | .bcl _ _ _ => true
  | .bcla _ _ _ => true
  | .bclr _ _ => true
  | .bclrl _ _ => true
  | .bcctr _ _ => true
  | .bcctrl _ _ => true
  | .add _ _ _ => true
  | .addRc _ _ _ => true
  | .addo _ _ _ => true
  | .addoRc _ _ _ => true
  | .addc _ _ _ => true
  | .addcRc _ _ _ => true
  | .addco _ _ _ => true
  | .addcoRc _ _ _ => true
  | .adde _ _ _ => true
  | .addeRc _ _ _ => true
  | .addeo _ _ _ => true
  | .addeoRc _ _ _ => true
  | .addme _ _ => true
  | .addmeRc _ _ => true
  | .addmeo _ _ => true
  | .addmeoRc _ _ => true
  | .addze _ _ => true
  | .addzeRc _ _ => true
  | .addzeo _ _ => true
  | .addzeoRc _ _ => true
  | .subf _ _ _ => true
  | .subfRc _ _ _ => true
  | .subfo _ _ _ => true
  | .subfoRc _ _ _ => true
  | .subfc _ _ _ => true
  | .subfcRc _ _ _ => true
  | .subfco _ _ _ => true
  | .subfcoRc _ _ _ => true
  | .subfe _ _ _ => true
  | .subfeRc _ _ _ => true
  | .subfeo _ _ _ => true
  | .subfeoRc _ _ _ => true
  | .subfme _ _ => true
  | .subfmeRc _ _ => true
  | .subfmeo _ _ => true
  | .subfmeoRc _ _ => true
  | .subfze _ _ => true
  | .subfzeRc _ _ => true
  | .subfzeo _ _ => true
  | .subfzeoRc _ _ => true
  | .neg _ _ => true
  | .negRc _ _ => true
  | .nego _ _ => true
  | .negoRc _ _ => true
  | .addi _ _ _ => true
  | .addis _ _ _ => true
  | .addic _ _ _ => true
  | .addicRc _ _ _ => true
  | .subfic _ _ _ => true
  | .mullw _ _ _ => true
  | .mullwRc _ _ _ => true
  | .mullwo _ _ _ => true
  | .mullwoRc _ _ _ => true
  | .mulhw _ _ _ => true
  | .mulhwRc _ _ _ => true
  | .mulhwu _ _ _ => true
  | .mulhwuRc _ _ _ => true
  | .mulli _ _ _ => true
  | .divw _ _ _ => true
  | .divwRc _ _ _ => true
  | .divwo _ _ _ => true
  | .divwoRc _ _ _ => true
  | .divwu _ _ _ => true
  | .divwuRc _ _ _ => true
  | .divwuo _ _ _ => true
  | .divwuoRc _ _ _ => true
  | .cmp _ _ _ _ => true
  | .cmpi _ _ _ _ => true
  | .cmpl _ _ _ _ => true
  | .cmpli _ _ _ _ => true
  | .and _ _ _ => true
  | .andRc _ _ _ => true
  | .andc _ _ _ => true
  | .andcRc _ _ _ => true
  | .eqv _ _ _ => true
  | .eqvRc _ _ _ => true
  | .nand _ _ _ => true
  | .nandRc _ _ _ => true
  | .nor _ _ _ => true
  | .norRc _ _ _ => true
  | .or _ _ _ => true
  | .orRc _ _ _ => true
  | .orc _ _ _ => true
  | .orcRc _ _ _ => true
  | .xor _ _ _ => true
  | .xorRc _ _ _ => true
  | .andiRc _ _ _ => true
  | .andisRc _ _ _ => true
  | .ori _ _ _ => true
  | .oris _ _ _ => true
  | .xori _ _ _ => true
  | .xoris _ _ _ => true
  | .extsb _ _ => true
  | .extsbRc _ _ => true
  | .extsh _ _ => true
  | .extshRc _ _ => true
  | .cntlzw _ _ => true
  | .cntlzwRc _ _ => true
  | .slw _ _ _ => true
  | .slwRc _ _ _ => true
  | .srw _ _ _ => true
  | .srwRc _ _ _ => true
  | .sraw _ _ _ => true
  | .srawRc _ _ _ => true
  | .srawi _ _ _ => true
  | .srawiRc _ _ _ => true
  | .rlwimi _ _ _ _ _ => true
  | .rlwimiRc _ _ _ _ _ => true
  | .rlwinm _ _ _ _ _ => true
  | .rlwinmRc _ _ _ _ _ => true
  | .rlwnm _ _ _ _ _ => true
  | .rlwnmRc _ _ _ _ _ => true
  | .crand _ _ _ => true
  | .crandc _ _ _ => true
  | .creqv _ _ _ => true
  | .crnand _ _ _ => true
  | .crnor _ _ _ => true
  | .cror _ _ _ => true
  | .crorc _ _ _ => true
  | .crxor _ _ _ => true
  | .mcrf _ _ => true
  | .lbz _ _ _ => true
  | .lbzx _ _ _ => true
  | .lbzu _ _ _ => true
  | .lbzux _ _ _ => true
  | .lhz _ _ _ => true
  | .lhzx _ _ _ => true
  | .lhzu _ _ _ => true
  | .lhzux _ _ _ => true
  | .lha _ _ _ => true
  | .lhax _ _ _ => true
  | .lhau _ _ _ => true
  | .lhaux _ _ _ => true
  | .lwz _ _ _ => true
  | .lwzx _ _ _ => true
  | .lwzu _ _ _ => true
  | .lwzux _ _ _ => true
  | .lhbrx _ _ _ => true
  | .lwbrx _ _ _ => true
  | .lmw _ _ _ => true
  | .lswx _ _ _ => true
  | .stb _ _ _ => true
  | .stbx _ _ _ => true
  | .stbu _ _ _ => true
  | .stbux _ _ _ => true
  | .sth _ _ _ => true
  | .sthx _ _ _ => true
  | .sthu _ _ _ => true
  | .sthux _ _ _ => true
  | .stw _ _ _ => true
  | .stwx _ _ _ => true
  | .stwu _ _ _ => true
  | .stwux _ _ _ => true
  | .sthbrx _ _ _ => true
  | .stwbrx _ _ _ => true
  | .stmw _ _ _ => true
  | .stswx _ _ _ => true
  | .mfcr _ => true
  | .mtcrf _ _ => true
  | .mcrxr _ => true
  | .sc => true

end Sys2Proof
end

