-- ==== Sys2Proof/Decode.lean ====
section
/-! DEFINITION. The decoder of 30_encoding.md R119 (fields R91, tables R121 to R123), total on any bytes and rejecting
by name, and after it the encoder, written from the format layouts R92 to R107. UNVERIFIED (log 17): every position
and number is one the spec takes from general knowledge. -/

namespace Sys2Proof

/-! ### The fields (30_encoding.md R91), as slices of the instruction word -/

/-- Primary opcode: `iw[31:26]`. -/
def Field.opcd (iw : Word) : BitVec 6 := iw.extractLsb' 26 6

/-- 10-bit extended opcode: `iw[10:1]`. -/
def Field.xo10 (iw : Word) : BitVec 10 := iw.extractLsb' 1 10

/-- `rD`, or `rS`, `BO`, `crbD`: the first 5-bit field: `iw[25:21]`. -/
def Field.rD (iw : Word) : BitVec 5 := iw.extractLsb' 21 5

/-- `rA`, or `BI`, `crbA`: the second 5-bit field: `iw[20:16]`. -/
def Field.rA (iw : Word) : BitVec 5 := iw.extractLsb' 16 5

/-- `rB`, or `SH`, `NB`, `crbB`: the third 5-bit field: `iw[15:11]`. -/
def Field.rB (iw : Word) : BitVec 5 := iw.extractLsb' 11 5

/-- `SIMM`, `UIMM` or `D`: `iw[15:0]`. -/
def Field.imm16 (iw : Word) : BitVec 16 := iw.extractLsb' 0 16

/-- `LI`: `iw[25:2]`. -/
def Field.li (iw : Word) : BitVec 24 := iw.extractLsb' 2 24

/-- `BD`: `iw[15:2]`. -/
def Field.bd (iw : Word) : BitVec 14 := iw.extractLsb' 2 14

/-- `crfD`: `iw[25:23]`. -/
def Field.crfD (iw : Word) : BitVec 3 := iw.extractLsb' 23 3

/-- `L`: `iw[21:21]`. -/
def Field.l (iw : Word) : BitVec 1 := iw.extractLsb' 21 1

/-- `crfS`: `iw[20:18]`. -/
def Field.crfS (iw : Word) : BitVec 3 := iw.extractLsb' 18 3

/-- `SPR`: `iw[20:11]`. -/
def Field.spr (iw : Word) : BitVec 10 := iw.extractLsb' 11 10

/-- `CRM`: `iw[19:12]`. -/
def Field.crm (iw : Word) : BitVec 8 := iw.extractLsb' 12 8

/-- `MB`: `iw[10:6]`. -/
def Field.mb (iw : Word) : BitVec 5 := iw.extractLsb' 6 5

/-- `ME`: `iw[5:1]`. -/
def Field.me (iw : Word) : BitVec 5 := iw.extractLsb' 1 5

/-- The 5-bit swap of 30_encoding.md R113: the two halves exchanged. It is its own inverse. -/
def swapSpr (f : BitVec 10) : BitVec 10 := f.extractLsb' 0 5 ++ f.extractLsb' 5 5

/-- The SPR number of a word, `n = SPR[4:0] || SPR[9:5]` (30_encoding.md R113). -/
def Field.sprNumber (iw : Word) : Nat := (swapSpr (Field.spr iw)).toNat

/-- The byte count of `lswi` and `stswi` from the field `NB`: 0 means 32 (30_encoding.md R115). -/
def byteCountOf (nb : BitVec 5) : Nat := if nb = 0#5 then 32 else nb.toNat

/-- The byte count of a word. -/
def Field.byteCount (iw : Word) : Nat := byteCountOf (Field.rB iw)

/-! ### The table (30_encoding.md R119, spec/opcode_table.json) -/

/-- One row of the opcode table: its mask and match, and how its operand fields are read. -/
structure DecodeRow where
  mnemonic : String
  mask : Word
  pattern : Word
  build : Word → Instr

/-- The word selects this row: `(iw AND mask) = match` (30_encoding.md R119). -/
def DecodeRow.matches (r : DecodeRow) (iw : Word) : Bool := iw &&& r.mask == r.pattern

/-- The rows of 41_branch.md. -/
def decodeRowsBranch : List DecodeRow :=
  [⟨"b", 0xFC000003#32, 0x48000000#32, fun iw => .b (Field.li iw)⟩,
   ⟨"ba", 0xFC000003#32, 0x48000002#32, fun iw => .ba (Field.li iw)⟩,
   ⟨"bl", 0xFC000003#32, 0x48000001#32, fun iw => .bl (Field.li iw)⟩,
   ⟨"bla", 0xFC000003#32, 0x48000003#32, fun iw => .bla (Field.li iw)⟩,
   ⟨"bc", 0xFC000003#32, 0x40000000#32, fun iw => .bc (Field.rD iw) (Field.rA iw) (Field.bd iw)⟩,
   ⟨"bca", 0xFC000003#32, 0x40000002#32, fun iw => .bca (Field.rD iw) (Field.rA iw) (Field.bd iw)⟩,
   ⟨"bcl", 0xFC000003#32, 0x40000001#32, fun iw => .bcl (Field.rD iw) (Field.rA iw) (Field.bd iw)⟩,
   ⟨"bcla", 0xFC000003#32, 0x40000003#32, fun iw => .bcla (Field.rD iw) (Field.rA iw) (Field.bd iw)⟩,
   ⟨"bclr", 0xFC0007FF#32, 0x4C000020#32, fun iw => .bclr (Field.rD iw) (Field.rA iw)⟩,
   ⟨"bclrl", 0xFC0007FF#32, 0x4C000021#32, fun iw => .bclrl (Field.rD iw) (Field.rA iw)⟩,
   ⟨"bcctr", 0xFC0007FF#32, 0x4C000420#32, fun iw => .bcctr (Field.rD iw) (Field.rA iw)⟩,
   ⟨"bcctrl", 0xFC0007FF#32, 0x4C000421#32, fun iw => .bcctrl (Field.rD iw) (Field.rA iw)⟩]

/-- The rows of 42_add_sub.md, part 1. -/
def decodeRowsAddSub1 : List DecodeRow :=
  [⟨"add", 0xFC0007FF#32, 0x7C000214#32, fun iw => .add (Field.rD iw) (Field.rA iw) (Field.rB iw)⟩,
   ⟨"add.", 0xFC0007FF#32, 0x7C000215#32, fun iw => .addRc (Field.rD iw) (Field.rA iw) (Field.rB iw)⟩,
   ⟨"addo", 0xFC0007FF#32, 0x7C000614#32, fun iw => .addo (Field.rD iw) (Field.rA iw) (Field.rB iw)⟩,
   ⟨"addo.", 0xFC0007FF#32, 0x7C000615#32, fun iw => .addoRc (Field.rD iw) (Field.rA iw) (Field.rB iw)⟩,
   ⟨"addc", 0xFC0007FF#32, 0x7C000014#32, fun iw => .addc (Field.rD iw) (Field.rA iw) (Field.rB iw)⟩,
   ⟨"addc.", 0xFC0007FF#32, 0x7C000015#32, fun iw => .addcRc (Field.rD iw) (Field.rA iw) (Field.rB iw)⟩,
   ⟨"addco", 0xFC0007FF#32, 0x7C000414#32, fun iw => .addco (Field.rD iw) (Field.rA iw) (Field.rB iw)⟩,
   ⟨"addco.", 0xFC0007FF#32, 0x7C000415#32, fun iw => .addcoRc (Field.rD iw) (Field.rA iw) (Field.rB iw)⟩,
   ⟨"adde", 0xFC0007FF#32, 0x7C000114#32, fun iw => .adde (Field.rD iw) (Field.rA iw) (Field.rB iw)⟩,
   ⟨"adde.", 0xFC0007FF#32, 0x7C000115#32, fun iw => .addeRc (Field.rD iw) (Field.rA iw) (Field.rB iw)⟩,
   ⟨"addeo", 0xFC0007FF#32, 0x7C000514#32, fun iw => .addeo (Field.rD iw) (Field.rA iw) (Field.rB iw)⟩,
   ⟨"addeo.", 0xFC0007FF#32, 0x7C000515#32, fun iw => .addeoRc (Field.rD iw) (Field.rA iw) (Field.rB iw)⟩,
   ⟨"addme", 0xFC0007FF#32, 0x7C0001D4#32, fun iw => .addme (Field.rD iw) (Field.rA iw)⟩,
   ⟨"addme.", 0xFC0007FF#32, 0x7C0001D5#32, fun iw => .addmeRc (Field.rD iw) (Field.rA iw)⟩,
   ⟨"addmeo", 0xFC0007FF#32, 0x7C0005D4#32, fun iw => .addmeo (Field.rD iw) (Field.rA iw)⟩,
   ⟨"addmeo.", 0xFC0007FF#32, 0x7C0005D5#32, fun iw => .addmeoRc (Field.rD iw) (Field.rA iw)⟩,
   ⟨"addze", 0xFC0007FF#32, 0x7C000194#32, fun iw => .addze (Field.rD iw) (Field.rA iw)⟩,
   ⟨"addze.", 0xFC0007FF#32, 0x7C000195#32, fun iw => .addzeRc (Field.rD iw) (Field.rA iw)⟩,
   ⟨"addzeo", 0xFC0007FF#32, 0x7C000594#32, fun iw => .addzeo (Field.rD iw) (Field.rA iw)⟩,
   ⟨"addzeo.", 0xFC0007FF#32, 0x7C000595#32, fun iw => .addzeoRc (Field.rD iw) (Field.rA iw)⟩,
   ⟨"subf", 0xFC0007FF#32, 0x7C000050#32, fun iw => .subf (Field.rD iw) (Field.rA iw) (Field.rB iw)⟩,
   ⟨"subf.", 0xFC0007FF#32, 0x7C000051#32, fun iw => .subfRc (Field.rD iw) (Field.rA iw) (Field.rB iw)⟩,
   ⟨"subfo", 0xFC0007FF#32, 0x7C000450#32, fun iw => .subfo (Field.rD iw) (Field.rA iw) (Field.rB iw)⟩,
   ⟨"subfo.", 0xFC0007FF#32, 0x7C000451#32, fun iw => .subfoRc (Field.rD iw) (Field.rA iw) (Field.rB iw)⟩,
   ⟨"subfc", 0xFC0007FF#32, 0x7C000010#32, fun iw => .subfc (Field.rD iw) (Field.rA iw) (Field.rB iw)⟩,
   ⟨"subfc.", 0xFC0007FF#32, 0x7C000011#32, fun iw => .subfcRc (Field.rD iw) (Field.rA iw) (Field.rB iw)⟩,
   ⟨"subfco", 0xFC0007FF#32, 0x7C000410#32, fun iw => .subfco (Field.rD iw) (Field.rA iw) (Field.rB iw)⟩,
   ⟨"subfco.", 0xFC0007FF#32, 0x7C000411#32, fun iw => .subfcoRc (Field.rD iw) (Field.rA iw) (Field.rB iw)⟩]

/-- The rows of 42_add_sub.md, part 2. -/
def decodeRowsAddSub2 : List DecodeRow :=
  [⟨"subfe", 0xFC0007FF#32, 0x7C000110#32, fun iw => .subfe (Field.rD iw) (Field.rA iw) (Field.rB iw)⟩,
   ⟨"subfe.", 0xFC0007FF#32, 0x7C000111#32, fun iw => .subfeRc (Field.rD iw) (Field.rA iw) (Field.rB iw)⟩,
   ⟨"subfeo", 0xFC0007FF#32, 0x7C000510#32, fun iw => .subfeo (Field.rD iw) (Field.rA iw) (Field.rB iw)⟩,
   ⟨"subfeo.", 0xFC0007FF#32, 0x7C000511#32, fun iw => .subfeoRc (Field.rD iw) (Field.rA iw) (Field.rB iw)⟩,
   ⟨"subfme", 0xFC0007FF#32, 0x7C0001D0#32, fun iw => .subfme (Field.rD iw) (Field.rA iw)⟩,
   ⟨"subfme.", 0xFC0007FF#32, 0x7C0001D1#32, fun iw => .subfmeRc (Field.rD iw) (Field.rA iw)⟩,
   ⟨"subfmeo", 0xFC0007FF#32, 0x7C0005D0#32, fun iw => .subfmeo (Field.rD iw) (Field.rA iw)⟩,
   ⟨"subfmeo.", 0xFC0007FF#32, 0x7C0005D1#32, fun iw => .subfmeoRc (Field.rD iw) (Field.rA iw)⟩,
   ⟨"subfze", 0xFC0007FF#32, 0x7C000190#32, fun iw => .subfze (Field.rD iw) (Field.rA iw)⟩,
   ⟨"subfze.", 0xFC0007FF#32, 0x7C000191#32, fun iw => .subfzeRc (Field.rD iw) (Field.rA iw)⟩,
   ⟨"subfzeo", 0xFC0007FF#32, 0x7C000590#32, fun iw => .subfzeo (Field.rD iw) (Field.rA iw)⟩,
   ⟨"subfzeo.", 0xFC0007FF#32, 0x7C000591#32, fun iw => .subfzeoRc (Field.rD iw) (Field.rA iw)⟩,
   ⟨"neg", 0xFC0007FF#32, 0x7C0000D0#32, fun iw => .neg (Field.rD iw) (Field.rA iw)⟩,
   ⟨"neg.", 0xFC0007FF#32, 0x7C0000D1#32, fun iw => .negRc (Field.rD iw) (Field.rA iw)⟩,
   ⟨"nego", 0xFC0007FF#32, 0x7C0004D0#32, fun iw => .nego (Field.rD iw) (Field.rA iw)⟩,
   ⟨"nego.", 0xFC0007FF#32, 0x7C0004D1#32, fun iw => .negoRc (Field.rD iw) (Field.rA iw)⟩,
   ⟨"addi", 0xFC000000#32, 0x38000000#32, fun iw => .addi (Field.rD iw) (Field.rA iw) (Field.imm16 iw)⟩,
   ⟨"addis", 0xFC000000#32, 0x3C000000#32, fun iw => .addis (Field.rD iw) (Field.rA iw) (Field.imm16 iw)⟩,
   ⟨"addic", 0xFC000000#32, 0x30000000#32, fun iw => .addic (Field.rD iw) (Field.rA iw) (Field.imm16 iw)⟩,
   ⟨"addic.", 0xFC000000#32, 0x34000000#32, fun iw => .addicRc (Field.rD iw) (Field.rA iw) (Field.imm16 iw)⟩,
   ⟨"subfic", 0xFC000000#32, 0x20000000#32, fun iw => .subfic (Field.rD iw) (Field.rA iw) (Field.imm16 iw)⟩]

/-- The rows of 43_mul_div_cmp.md. -/
def decodeRowsMulDivCmp : List DecodeRow :=
  [⟨"mullw", 0xFC0007FF#32, 0x7C0001D6#32, fun iw => .mullw (Field.rD iw) (Field.rA iw) (Field.rB iw)⟩,
   ⟨"mullw.", 0xFC0007FF#32, 0x7C0001D7#32, fun iw => .mullwRc (Field.rD iw) (Field.rA iw) (Field.rB iw)⟩,
   ⟨"mullwo", 0xFC0007FF#32, 0x7C0005D6#32, fun iw => .mullwo (Field.rD iw) (Field.rA iw) (Field.rB iw)⟩,
   ⟨"mullwo.", 0xFC0007FF#32, 0x7C0005D7#32, fun iw => .mullwoRc (Field.rD iw) (Field.rA iw) (Field.rB iw)⟩,
   ⟨"mulhw", 0xFC0003FF#32, 0x7C000096#32, fun iw => .mulhw (Field.rD iw) (Field.rA iw) (Field.rB iw)⟩,
   ⟨"mulhw.", 0xFC0003FF#32, 0x7C000097#32, fun iw => .mulhwRc (Field.rD iw) (Field.rA iw) (Field.rB iw)⟩,
   ⟨"mulhwu", 0xFC0003FF#32, 0x7C000016#32, fun iw => .mulhwu (Field.rD iw) (Field.rA iw) (Field.rB iw)⟩,
   ⟨"mulhwu.", 0xFC0003FF#32, 0x7C000017#32, fun iw => .mulhwuRc (Field.rD iw) (Field.rA iw) (Field.rB iw)⟩,
   ⟨"mulli", 0xFC000000#32, 0x1C000000#32, fun iw => .mulli (Field.rD iw) (Field.rA iw) (Field.imm16 iw)⟩,
   ⟨"divw", 0xFC0007FF#32, 0x7C0003D6#32, fun iw => .divw (Field.rD iw) (Field.rA iw) (Field.rB iw)⟩,
   ⟨"divw.", 0xFC0007FF#32, 0x7C0003D7#32, fun iw => .divwRc (Field.rD iw) (Field.rA iw) (Field.rB iw)⟩,
   ⟨"divwo", 0xFC0007FF#32, 0x7C0007D6#32, fun iw => .divwo (Field.rD iw) (Field.rA iw) (Field.rB iw)⟩,
   ⟨"divwo.", 0xFC0007FF#32, 0x7C0007D7#32, fun iw => .divwoRc (Field.rD iw) (Field.rA iw) (Field.rB iw)⟩,
   ⟨"divwu", 0xFC0007FF#32, 0x7C000396#32, fun iw => .divwu (Field.rD iw) (Field.rA iw) (Field.rB iw)⟩,
   ⟨"divwu.", 0xFC0007FF#32, 0x7C000397#32, fun iw => .divwuRc (Field.rD iw) (Field.rA iw) (Field.rB iw)⟩,
   ⟨"divwuo", 0xFC0007FF#32, 0x7C000796#32, fun iw => .divwuo (Field.rD iw) (Field.rA iw) (Field.rB iw)⟩,
   ⟨"divwuo.", 0xFC0007FF#32, 0x7C000797#32, fun iw => .divwuoRc (Field.rD iw) (Field.rA iw) (Field.rB iw)⟩,
   ⟨"cmp", 0xFC0007FE#32, 0x7C000000#32, fun iw => .cmp (Field.crfD iw) (Field.l iw) (Field.rA iw) (Field.rB iw)⟩,
   ⟨"cmpi", 0xFC000000#32, 0x2C000000#32, fun iw => .cmpi (Field.crfD iw) (Field.l iw) (Field.rA iw) (Field.imm16 iw)⟩,
   ⟨"cmpl", 0xFC0007FE#32, 0x7C000040#32, fun iw => .cmpl (Field.crfD iw) (Field.l iw) (Field.rA iw) (Field.rB iw)⟩,
   ⟨"cmpli", 0xFC000000#32, 0x28000000#32, fun iw => .cmpli (Field.crfD iw) (Field.l iw) (Field.rA iw) (Field.imm16 iw)⟩]

/-- The rows of 44_logical.md. -/
def decodeRowsLogical : List DecodeRow :=
  [⟨"and", 0xFC0007FF#32, 0x7C000038#32, fun iw => .and (Field.rA iw) (Field.rD iw) (Field.rB iw)⟩,
   ⟨"and.", 0xFC0007FF#32, 0x7C000039#32, fun iw => .andRc (Field.rA iw) (Field.rD iw) (Field.rB iw)⟩,
   ⟨"andc", 0xFC0007FF#32, 0x7C000078#32, fun iw => .andc (Field.rA iw) (Field.rD iw) (Field.rB iw)⟩,
   ⟨"andc.", 0xFC0007FF#32, 0x7C000079#32, fun iw => .andcRc (Field.rA iw) (Field.rD iw) (Field.rB iw)⟩,
   ⟨"eqv", 0xFC0007FF#32, 0x7C000238#32, fun iw => .eqv (Field.rA iw) (Field.rD iw) (Field.rB iw)⟩,
   ⟨"eqv.", 0xFC0007FF#32, 0x7C000239#32, fun iw => .eqvRc (Field.rA iw) (Field.rD iw) (Field.rB iw)⟩,
   ⟨"nand", 0xFC0007FF#32, 0x7C0003B8#32, fun iw => .nand (Field.rA iw) (Field.rD iw) (Field.rB iw)⟩,
   ⟨"nand.", 0xFC0007FF#32, 0x7C0003B9#32, fun iw => .nandRc (Field.rA iw) (Field.rD iw) (Field.rB iw)⟩,
   ⟨"nor", 0xFC0007FF#32, 0x7C0000F8#32, fun iw => .nor (Field.rA iw) (Field.rD iw) (Field.rB iw)⟩,
   ⟨"nor.", 0xFC0007FF#32, 0x7C0000F9#32, fun iw => .norRc (Field.rA iw) (Field.rD iw) (Field.rB iw)⟩,
   ⟨"or", 0xFC0007FF#32, 0x7C000378#32, fun iw => .or (Field.rA iw) (Field.rD iw) (Field.rB iw)⟩,
   ⟨"or.", 0xFC0007FF#32, 0x7C000379#32, fun iw => .orRc (Field.rA iw) (Field.rD iw) (Field.rB iw)⟩,
   ⟨"orc", 0xFC0007FF#32, 0x7C000338#32, fun iw => .orc (Field.rA iw) (Field.rD iw) (Field.rB iw)⟩,
   ⟨"orc.", 0xFC0007FF#32, 0x7C000339#32, fun iw => .orcRc (Field.rA iw) (Field.rD iw) (Field.rB iw)⟩,
   ⟨"xor", 0xFC0007FF#32, 0x7C000278#32, fun iw => .xor (Field.rA iw) (Field.rD iw) (Field.rB iw)⟩,
   ⟨"xor.", 0xFC0007FF#32, 0x7C000279#32, fun iw => .xorRc (Field.rA iw) (Field.rD iw) (Field.rB iw)⟩,
   ⟨"andi.", 0xFC000000#32, 0x70000000#32, fun iw => .andiRc (Field.rA iw) (Field.rD iw) (Field.imm16 iw)⟩,
   ⟨"andis.", 0xFC000000#32, 0x74000000#32, fun iw => .andisRc (Field.rA iw) (Field.rD iw) (Field.imm16 iw)⟩,
   ⟨"ori", 0xFC000000#32, 0x60000000#32, fun iw => .ori (Field.rA iw) (Field.rD iw) (Field.imm16 iw)⟩,
   ⟨"oris", 0xFC000000#32, 0x64000000#32, fun iw => .oris (Field.rA iw) (Field.rD iw) (Field.imm16 iw)⟩,
   ⟨"xori", 0xFC000000#32, 0x68000000#32, fun iw => .xori (Field.rA iw) (Field.rD iw) (Field.imm16 iw)⟩,
   ⟨"xoris", 0xFC000000#32, 0x6C000000#32, fun iw => .xoris (Field.rA iw) (Field.rD iw) (Field.imm16 iw)⟩,
   ⟨"extsb", 0xFC0007FF#32, 0x7C000774#32, fun iw => .extsb (Field.rA iw) (Field.rD iw)⟩,
   ⟨"extsb.", 0xFC0007FF#32, 0x7C000775#32, fun iw => .extsbRc (Field.rA iw) (Field.rD iw)⟩,
   ⟨"extsh", 0xFC0007FF#32, 0x7C000734#32, fun iw => .extsh (Field.rA iw) (Field.rD iw)⟩,
   ⟨"extsh.", 0xFC0007FF#32, 0x7C000735#32, fun iw => .extshRc (Field.rA iw) (Field.rD iw)⟩,
   ⟨"cntlzw", 0xFC0007FF#32, 0x7C000034#32, fun iw => .cntlzw (Field.rA iw) (Field.rD iw)⟩,
   ⟨"cntlzw.", 0xFC0007FF#32, 0x7C000035#32, fun iw => .cntlzwRc (Field.rA iw) (Field.rD iw)⟩]

/-- The rows of 45_shift_rotate.md. -/
def decodeRowsShiftRotate : List DecodeRow :=
  [⟨"slw", 0xFC0007FF#32, 0x7C000030#32, fun iw => .slw (Field.rA iw) (Field.rD iw) (Field.rB iw)⟩,
   ⟨"slw.", 0xFC0007FF#32, 0x7C000031#32, fun iw => .slwRc (Field.rA iw) (Field.rD iw) (Field.rB iw)⟩,
   ⟨"srw", 0xFC0007FF#32, 0x7C000430#32, fun iw => .srw (Field.rA iw) (Field.rD iw) (Field.rB iw)⟩,
   ⟨"srw.", 0xFC0007FF#32, 0x7C000431#32, fun iw => .srwRc (Field.rA iw) (Field.rD iw) (Field.rB iw)⟩,
   ⟨"sraw", 0xFC0007FF#32, 0x7C000630#32, fun iw => .sraw (Field.rA iw) (Field.rD iw) (Field.rB iw)⟩,
   ⟨"sraw.", 0xFC0007FF#32, 0x7C000631#32, fun iw => .srawRc (Field.rA iw) (Field.rD iw) (Field.rB iw)⟩,
   ⟨"srawi", 0xFC0007FF#32, 0x7C000670#32, fun iw => .srawi (Field.rA iw) (Field.rD iw) (Field.rB iw)⟩,
   ⟨"srawi.", 0xFC0007FF#32, 0x7C000671#32, fun iw => .srawiRc (Field.rA iw) (Field.rD iw) (Field.rB iw)⟩,
   ⟨"rlwimi", 0xFC000001#32, 0x50000000#32, fun iw => .rlwimi (Field.rA iw) (Field.rD iw) (Field.rB iw) (Field.mb iw) (Field.me iw)⟩,
   ⟨"rlwimi.", 0xFC000001#32, 0x50000001#32, fun iw => .rlwimiRc (Field.rA iw) (Field.rD iw) (Field.rB iw) (Field.mb iw) (Field.me iw)⟩,
   ⟨"rlwinm", 0xFC000001#32, 0x54000000#32, fun iw => .rlwinm (Field.rA iw) (Field.rD iw) (Field.rB iw) (Field.mb iw) (Field.me iw)⟩,
   ⟨"rlwinm.", 0xFC000001#32, 0x54000001#32, fun iw => .rlwinmRc (Field.rA iw) (Field.rD iw) (Field.rB iw) (Field.mb iw) (Field.me iw)⟩,
   ⟨"rlwnm", 0xFC000001#32, 0x5C000000#32, fun iw => .rlwnm (Field.rA iw) (Field.rD iw) (Field.rB iw) (Field.mb iw) (Field.me iw)⟩,
   ⟨"rlwnm.", 0xFC000001#32, 0x5C000001#32, fun iw => .rlwnmRc (Field.rA iw) (Field.rD iw) (Field.rB iw) (Field.mb iw) (Field.me iw)⟩]

/-- The rows of 46_cr_logical.md. -/
def decodeRowsCrLogical : List DecodeRow :=
  [⟨"crand", 0xFC0007FE#32, 0x4C000202#32, fun iw => .crand (Field.rD iw) (Field.rA iw) (Field.rB iw)⟩,
   ⟨"crandc", 0xFC0007FE#32, 0x4C000102#32, fun iw => .crandc (Field.rD iw) (Field.rA iw) (Field.rB iw)⟩,
   ⟨"creqv", 0xFC0007FE#32, 0x4C000242#32, fun iw => .creqv (Field.rD iw) (Field.rA iw) (Field.rB iw)⟩,
   ⟨"crnand", 0xFC0007FE#32, 0x4C0001C2#32, fun iw => .crnand (Field.rD iw) (Field.rA iw) (Field.rB iw)⟩,
   ⟨"crnor", 0xFC0007FE#32, 0x4C000042#32, fun iw => .crnor (Field.rD iw) (Field.rA iw) (Field.rB iw)⟩,
   ⟨"cror", 0xFC0007FE#32, 0x4C000382#32, fun iw => .cror (Field.rD iw) (Field.rA iw) (Field.rB iw)⟩,
   ⟨"crorc", 0xFC0007FE#32, 0x4C000342#32, fun iw => .crorc (Field.rD iw) (Field.rA iw) (Field.rB iw)⟩,
   ⟨"crxor", 0xFC0007FE#32, 0x4C000182#32, fun iw => .crxor (Field.rD iw) (Field.rA iw) (Field.rB iw)⟩,
   ⟨"mcrf", 0xFC0007FE#32, 0x4C000000#32, fun iw => .mcrf (Field.crfD iw) (Field.crfS iw)⟩]

/-- The rows of 47_load.md. -/
def decodeRowsLoad : List DecodeRow :=
  [⟨"lbz", 0xFC000000#32, 0x88000000#32, fun iw => .lbz (Field.rD iw) (Field.rA iw) (Field.imm16 iw)⟩,
   ⟨"lbzx", 0xFC0007FE#32, 0x7C0000AE#32, fun iw => .lbzx (Field.rD iw) (Field.rA iw) (Field.rB iw)⟩,
   ⟨"lbzu", 0xFC000000#32, 0x8C000000#32, fun iw => .lbzu (Field.rD iw) (Field.rA iw) (Field.imm16 iw)⟩,
   ⟨"lbzux", 0xFC0007FE#32, 0x7C0000EE#32, fun iw => .lbzux (Field.rD iw) (Field.rA iw) (Field.rB iw)⟩,
   ⟨"lhz", 0xFC000000#32, 0xA0000000#32, fun iw => .lhz (Field.rD iw) (Field.rA iw) (Field.imm16 iw)⟩,
   ⟨"lhzx", 0xFC0007FE#32, 0x7C00022E#32, fun iw => .lhzx (Field.rD iw) (Field.rA iw) (Field.rB iw)⟩,
   ⟨"lhzu", 0xFC000000#32, 0xA4000000#32, fun iw => .lhzu (Field.rD iw) (Field.rA iw) (Field.imm16 iw)⟩,
   ⟨"lhzux", 0xFC0007FE#32, 0x7C00026E#32, fun iw => .lhzux (Field.rD iw) (Field.rA iw) (Field.rB iw)⟩,
   ⟨"lha", 0xFC000000#32, 0xA8000000#32, fun iw => .lha (Field.rD iw) (Field.rA iw) (Field.imm16 iw)⟩,
   ⟨"lhax", 0xFC0007FE#32, 0x7C0002AE#32, fun iw => .lhax (Field.rD iw) (Field.rA iw) (Field.rB iw)⟩,
   ⟨"lhau", 0xFC000000#32, 0xAC000000#32, fun iw => .lhau (Field.rD iw) (Field.rA iw) (Field.imm16 iw)⟩,
   ⟨"lhaux", 0xFC0007FE#32, 0x7C0002EE#32, fun iw => .lhaux (Field.rD iw) (Field.rA iw) (Field.rB iw)⟩,
   ⟨"lwz", 0xFC000000#32, 0x80000000#32, fun iw => .lwz (Field.rD iw) (Field.rA iw) (Field.imm16 iw)⟩,
   ⟨"lwzx", 0xFC0007FE#32, 0x7C00002E#32, fun iw => .lwzx (Field.rD iw) (Field.rA iw) (Field.rB iw)⟩,
   ⟨"lwzu", 0xFC000000#32, 0x84000000#32, fun iw => .lwzu (Field.rD iw) (Field.rA iw) (Field.imm16 iw)⟩,
   ⟨"lwzux", 0xFC0007FE#32, 0x7C00006E#32, fun iw => .lwzux (Field.rD iw) (Field.rA iw) (Field.rB iw)⟩,
   ⟨"lhbrx", 0xFC0007FE#32, 0x7C00062C#32, fun iw => .lhbrx (Field.rD iw) (Field.rA iw) (Field.rB iw)⟩,
   ⟨"lwbrx", 0xFC0007FE#32, 0x7C00042C#32, fun iw => .lwbrx (Field.rD iw) (Field.rA iw) (Field.rB iw)⟩,
   ⟨"lmw", 0xFC000000#32, 0xB8000000#32, fun iw => .lmw (Field.rD iw) (Field.rA iw) (Field.imm16 iw)⟩,
   ⟨"lswi", 0xFC0007FE#32, 0x7C0004AA#32, fun iw => .lswi (Field.rD iw) (Field.rA iw) (Field.byteCount iw)⟩,
   ⟨"lswx", 0xFC0007FE#32, 0x7C00042A#32, fun iw => .lswx (Field.rD iw) (Field.rA iw) (Field.rB iw)⟩]

/-- The rows of 48_store.md. -/
def decodeRowsStore : List DecodeRow :=
  [⟨"stb", 0xFC000000#32, 0x98000000#32, fun iw => .stb (Field.rD iw) (Field.rA iw) (Field.imm16 iw)⟩,
   ⟨"stbx", 0xFC0007FE#32, 0x7C0001AE#32, fun iw => .stbx (Field.rD iw) (Field.rA iw) (Field.rB iw)⟩,
   ⟨"stbu", 0xFC000000#32, 0x9C000000#32, fun iw => .stbu (Field.rD iw) (Field.rA iw) (Field.imm16 iw)⟩,
   ⟨"stbux", 0xFC0007FE#32, 0x7C0001EE#32, fun iw => .stbux (Field.rD iw) (Field.rA iw) (Field.rB iw)⟩,
   ⟨"sth", 0xFC000000#32, 0xB0000000#32, fun iw => .sth (Field.rD iw) (Field.rA iw) (Field.imm16 iw)⟩,
   ⟨"sthx", 0xFC0007FE#32, 0x7C00032E#32, fun iw => .sthx (Field.rD iw) (Field.rA iw) (Field.rB iw)⟩,
   ⟨"sthu", 0xFC000000#32, 0xB4000000#32, fun iw => .sthu (Field.rD iw) (Field.rA iw) (Field.imm16 iw)⟩,
   ⟨"sthux", 0xFC0007FE#32, 0x7C00036E#32, fun iw => .sthux (Field.rD iw) (Field.rA iw) (Field.rB iw)⟩,
   ⟨"stw", 0xFC000000#32, 0x90000000#32, fun iw => .stw (Field.rD iw) (Field.rA iw) (Field.imm16 iw)⟩,
   ⟨"stwx", 0xFC0007FE#32, 0x7C00012E#32, fun iw => .stwx (Field.rD iw) (Field.rA iw) (Field.rB iw)⟩,
   ⟨"stwu", 0xFC000000#32, 0x94000000#32, fun iw => .stwu (Field.rD iw) (Field.rA iw) (Field.imm16 iw)⟩,
   ⟨"stwux", 0xFC0007FE#32, 0x7C00016E#32, fun iw => .stwux (Field.rD iw) (Field.rA iw) (Field.rB iw)⟩,
   ⟨"sthbrx", 0xFC0007FE#32, 0x7C00072C#32, fun iw => .sthbrx (Field.rD iw) (Field.rA iw) (Field.rB iw)⟩,
   ⟨"stwbrx", 0xFC0007FE#32, 0x7C00052C#32, fun iw => .stwbrx (Field.rD iw) (Field.rA iw) (Field.rB iw)⟩,
   ⟨"stmw", 0xFC000000#32, 0xBC000000#32, fun iw => .stmw (Field.rD iw) (Field.rA iw) (Field.imm16 iw)⟩,
   ⟨"stswi", 0xFC0007FE#32, 0x7C0005AA#32, fun iw => .stswi (Field.rD iw) (Field.rA iw) (Field.byteCount iw)⟩,
   ⟨"stswx", 0xFC0007FE#32, 0x7C00052A#32, fun iw => .stswx (Field.rD iw) (Field.rA iw) (Field.rB iw)⟩]

/-- The rows of 49_move_system.md. -/
def decodeRowsMoveSystem : List DecodeRow :=
  [⟨"mfspr", 0xFC0007FE#32, 0x7C0002A6#32, fun iw => .mfspr (Field.rD iw) (Field.sprNumber iw)⟩,
   ⟨"mtspr", 0xFC0007FE#32, 0x7C0003A6#32, fun iw => .mtspr (Field.sprNumber iw) (Field.rD iw)⟩,
   ⟨"mfcr", 0xFC0007FE#32, 0x7C000026#32, fun iw => .mfcr (Field.rD iw)⟩,
   ⟨"mtcrf", 0xFC0007FE#32, 0x7C000120#32, fun iw => .mtcrf (Field.crm iw) (Field.rD iw)⟩,
   ⟨"mcrxr", 0xFC0007FE#32, 0x7C000400#32, fun iw => .mcrxr (Field.crfD iw)⟩,
   ⟨"sc", 0xFC000002#32, 0x44000002#32, fun _ => .sc⟩]

/-- The 177 rows. No two match one word, so their order is immaterial (30_encoding.md R119). -/
def decodeTable : List DecodeRow :=
  decodeRowsBranch ++
    decodeRowsAddSub1 ++
    decodeRowsAddSub2 ++
    decodeRowsMulDivCmp ++
    decodeRowsLogical ++
    decodeRowsShiftRotate ++
    decodeRowsCrLogical ++
    decodeRowsLoad ++
    decodeRowsStore ++
    decodeRowsMoveSystem

/-! ### The decoder -/

/-- Why a word or a byte sequence is no instruction (30_encoding.md R120). -/
inductive DecodeReject where
  /-- Fewer than four bytes were given. -/
  | truncated
  /-- The primary opcode is not in 30_encoding.md R121. -/
  | primaryOpcode (opcd : BitVec 6)
  /-- The extended opcode is not in 30_encoding.md R122 or R123. -/
  | extendedOpcode (opcd : BitVec 6) (xo : BitVec 10)
  /-- Primary opcode 17 with `iw[1] = 0`: not `sc` (30_encoding.md R94). -/
  | scBit
  deriving DecidableEq, Repr

/-- The name of the rejection of a word that matches no row. -/
def rejectReason (iw : Word) : DecodeReject :=
  if Field.opcd iw = 17#6 then .scBit
  else if Field.opcd iw = 19#6 ∨ Field.opcd iw = 31#6 then .extendedOpcode (Field.opcd iw) (Field.xo10 iw)
  else .primaryOpcode (Field.opcd iw)

/-- The instruction a word selects (30_encoding.md R119), or why it selects none (R120). -/
def decodeWord (iw : Word) : Except DecodeReject Instr :=
  match decodeTable.find? (·.matches iw) with
  | some row => .ok (row.build iw)
  | none => .error (rejectReason iw)

/-- The word four bytes stand for, the first at the lowest address and the most significant (20_memory.md R67). -/
def wordOfBytes (b0 b1 b2 b3 : Byte) : Word := b0 ++ b1 ++ b2 ++ b3

/-- The decoder on bytes: the first instruction, and the bytes after it. -/
def decodeBytes : List Byte → Except DecodeReject (Instr × List Byte)
  | b0 :: b1 :: b2 :: b3 :: rest => (decodeWord (wordOfBytes b0 b1 b2 b3)).map (·, rest)
  | _ => .error .truncated

/-- A word as the hardware stores it, most significant byte first (20_memory.md R61). -/
def bytesOfWord (iw : Word) : List Byte :=
  [iw.extractLsb' 24 8, iw.extractLsb' 16 8, iw.extractLsb' 8 8, iw.extractLsb' 0 8]

/-- The instruction word whose low `nbits` bits are those of `w` and whose other bits are 0: bit 0 of the table's
numbering is `iw[0]`. -/
def tableWord (nbits w : Nat) : Word := BitVec.ofNat 32 (w % 2 ^ nbits)

/-- The instruction the decoder reads from the table's bits `w`, laid out as bytes in memory order. -/
def decodeTableWord (nbits w : Nat) : Option Instr :=
  match decodeBytes (bytesOfWord (tableWord nbits w)) with
  | .ok (i, _) => some i
  | .error _ => none

/-! ### The encoder: the format layouts (30_encoding.md R92 to R107), reserved bits 0 (log 15) -/

/-- I-form (R92). -/
def formI (li : BitVec 24) (aa lk : BitVec 1) : Word := 18#6 ++ li ++ aa ++ lk

/-- B-form (R93). -/
def formB (bo : BitVec 5) (bi : CrBit) (bd : BitVec 14) (aa lk : BitVec 1) : Word := 16#6 ++ bo ++ bi ++ bd ++ aa ++ lk

/-- SC-form (R94). -/
def formSC : Word := 17#6 ++ 0#24 ++ 1#1 ++ 0#1

/-- D-form (R95): `rD` or `rS`, then `rA`, then the 16-bit immediate or displacement. -/
def formD (opcd : BitVec 6) (r rA : Reg) (imm : BitVec 16) : Word := opcd ++ r ++ rA ++ imm

/-- D-cmp-form (R96). -/
def formDCmp (opcd : BitVec 6) (crfD : CrField) (l : BitVec 1) (rA : Reg) (imm : BitVec 16) : Word :=
  opcd ++ crfD ++ 0#1 ++ l ++ rA ++ imm

/-- X-form (R97) and, with the immediate in place of `rB`, X-imm5-form (R107); `rc` is 0 where the bit is reserved. -/
def formX (xo : BitVec 10) (r rA rB : BitVec 5) (rc : BitVec 1) : Word := 31#6 ++ r ++ rA ++ rB ++ xo ++ rc

/-- X-cmp-form (R98). -/
def formXCmp (xo : BitVec 10) (crfD : CrField) (l : BitVec 1) (rA rB : Reg) : Word :=
  31#6 ++ crfD ++ 0#1 ++ l ++ rA ++ rB ++ xo ++ 0#1

/-- XO-form (R99). -/
def formXO (xo : BitVec 9) (rD rA rB : Reg) (oe rc : BitVec 1) : Word := 31#6 ++ rD ++ rA ++ rB ++ oe ++ xo ++ rc

/-- XL-b-form (R100). -/
def formXLb (xo : BitVec 10) (bo : BitVec 5) (bi : CrBit) (lk : BitVec 1) : Word :=
  19#6 ++ bo ++ bi ++ 0#5 ++ xo ++ lk

/-- XL-cr-form (R101). -/
def formXLcr (xo : BitVec 10) (crbD crbA crbB : CrBit) : Word := 19#6 ++ crbD ++ crbA ++ crbB ++ xo ++ 0#1

/-- XL-mcrf-form (R102). -/
def formMcrf (crfD crfS : CrField) : Word := 19#6 ++ crfD ++ 0#2 ++ crfS ++ 0#7 ++ 0#10 ++ 0#1

/-- The field `SPR` for the number `n`: the halves swapped (R113). -/
def sprFieldOf (n : Nat) : BitVec 10 := swapSpr (BitVec.ofNat 10 n)

/-- XFX-spr-form (R103). -/
def formSpr (xo : BitVec 10) (r : Reg) (n : Nat) : Word := 31#6 ++ r ++ sprFieldOf n ++ xo ++ 0#1

/-- XFX-mtcrf-form (R104). -/
def formMtcrf (rS : Reg) (crm : BitVec 8) : Word := 31#6 ++ rS ++ 0#1 ++ crm ++ 0#1 ++ 144#10 ++ 0#1

/-- X-crmove-form of `mfcr` (R105). -/
def formMfcr (rD : Reg) : Word := 31#6 ++ rD ++ 0#10 ++ 19#10 ++ 0#1

/-- X-crmove-form of `mcrxr` (R105). -/
def formMcrxr (crfD : CrField) : Word := 31#6 ++ crfD ++ 0#12 ++ 512#10 ++ 0#1

/-- M-form (R106). -/
def formM (opcd : BitVec 6) (rS rA sh mb me : BitVec 5) (rc : BitVec 1) : Word :=
  opcd ++ rS ++ rA ++ sh ++ mb ++ me ++ rc

/-- The field `NB` for a byte count of 1 to 32: 32 is written 0 (R115). -/
def byteCountField (n : Nat) : BitVec 5 := BitVec.ofNat 5 n

/-- The word of a well-formed instruction. -/
def encode : Instr → Word
  | .b li => formI li 0#1 0#1
  | .ba li => formI li 1#1 0#1
  | .bl li => formI li 0#1 1#1
  | .bla li => formI li 1#1 1#1
  | .bc bo bi bd => formB bo bi bd 0#1 0#1
  | .bca bo bi bd => formB bo bi bd 1#1 0#1
  | .bcl bo bi bd => formB bo bi bd 0#1 1#1
  | .bcla bo bi bd => formB bo bi bd 1#1 1#1
  | .bclr bo bi => formXLb 16#10 bo bi 0#1
  | .bclrl bo bi => formXLb 16#10 bo bi 1#1
  | .bcctr bo bi => formXLb 528#10 bo bi 0#1
  | .bcctrl bo bi => formXLb 528#10 bo bi 1#1
  | .add rD rA rB => formXO 266#9 rD rA rB 0#1 0#1
  | .addRc rD rA rB => formXO 266#9 rD rA rB 0#1 1#1
  | .addo rD rA rB => formXO 266#9 rD rA rB 1#1 0#1
  | .addoRc rD rA rB => formXO 266#9 rD rA rB 1#1 1#1
  | .addc rD rA rB => formXO 10#9 rD rA rB 0#1 0#1
  | .addcRc rD rA rB => formXO 10#9 rD rA rB 0#1 1#1
  | .addco rD rA rB => formXO 10#9 rD rA rB 1#1 0#1
  | .addcoRc rD rA rB => formXO 10#9 rD rA rB 1#1 1#1
  | .adde rD rA rB => formXO 138#9 rD rA rB 0#1 0#1
  | .addeRc rD rA rB => formXO 138#9 rD rA rB 0#1 1#1
  | .addeo rD rA rB => formXO 138#9 rD rA rB 1#1 0#1
  | .addeoRc rD rA rB => formXO 138#9 rD rA rB 1#1 1#1
  | .addme rD rA => formXO 234#9 rD rA 0#5 0#1 0#1
  | .addmeRc rD rA => formXO 234#9 rD rA 0#5 0#1 1#1
  | .addmeo rD rA => formXO 234#9 rD rA 0#5 1#1 0#1
  | .addmeoRc rD rA => formXO 234#9 rD rA 0#5 1#1 1#1
  | .addze rD rA => formXO 202#9 rD rA 0#5 0#1 0#1
  | .addzeRc rD rA => formXO 202#9 rD rA 0#5 0#1 1#1
  | .addzeo rD rA => formXO 202#9 rD rA 0#5 1#1 0#1
  | .addzeoRc rD rA => formXO 202#9 rD rA 0#5 1#1 1#1
  | .subf rD rA rB => formXO 40#9 rD rA rB 0#1 0#1
  | .subfRc rD rA rB => formXO 40#9 rD rA rB 0#1 1#1
  | .subfo rD rA rB => formXO 40#9 rD rA rB 1#1 0#1
  | .subfoRc rD rA rB => formXO 40#9 rD rA rB 1#1 1#1
  | .subfc rD rA rB => formXO 8#9 rD rA rB 0#1 0#1
  | .subfcRc rD rA rB => formXO 8#9 rD rA rB 0#1 1#1
  | .subfco rD rA rB => formXO 8#9 rD rA rB 1#1 0#1
  | .subfcoRc rD rA rB => formXO 8#9 rD rA rB 1#1 1#1
  | .subfe rD rA rB => formXO 136#9 rD rA rB 0#1 0#1
  | .subfeRc rD rA rB => formXO 136#9 rD rA rB 0#1 1#1
  | .subfeo rD rA rB => formXO 136#9 rD rA rB 1#1 0#1
  | .subfeoRc rD rA rB => formXO 136#9 rD rA rB 1#1 1#1
  | .subfme rD rA => formXO 232#9 rD rA 0#5 0#1 0#1
  | .subfmeRc rD rA => formXO 232#9 rD rA 0#5 0#1 1#1
  | .subfmeo rD rA => formXO 232#9 rD rA 0#5 1#1 0#1
  | .subfmeoRc rD rA => formXO 232#9 rD rA 0#5 1#1 1#1
  | .subfze rD rA => formXO 200#9 rD rA 0#5 0#1 0#1
  | .subfzeRc rD rA => formXO 200#9 rD rA 0#5 0#1 1#1
  | .subfzeo rD rA => formXO 200#9 rD rA 0#5 1#1 0#1
  | .subfzeoRc rD rA => formXO 200#9 rD rA 0#5 1#1 1#1
  | .neg rD rA => formXO 104#9 rD rA 0#5 0#1 0#1
  | .negRc rD rA => formXO 104#9 rD rA 0#5 0#1 1#1
  | .nego rD rA => formXO 104#9 rD rA 0#5 1#1 0#1
  | .negoRc rD rA => formXO 104#9 rD rA 0#5 1#1 1#1
  | .addi rD rA simm => formD 14#6 rD rA simm
  | .addis rD rA simm => formD 15#6 rD rA simm
  | .addic rD rA simm => formD 12#6 rD rA simm
  | .addicRc rD rA simm => formD 13#6 rD rA simm
  | .subfic rD rA simm => formD 8#6 rD rA simm
  | .mullw rD rA rB => formXO 235#9 rD rA rB 0#1 0#1
  | .mullwRc rD rA rB => formXO 235#9 rD rA rB 0#1 1#1
  | .mullwo rD rA rB => formXO 235#9 rD rA rB 1#1 0#1
  | .mullwoRc rD rA rB => formXO 235#9 rD rA rB 1#1 1#1
  | .mulhw rD rA rB => formXO 75#9 rD rA rB 0#1 0#1
  | .mulhwRc rD rA rB => formXO 75#9 rD rA rB 0#1 1#1
  | .mulhwu rD rA rB => formXO 11#9 rD rA rB 0#1 0#1
  | .mulhwuRc rD rA rB => formXO 11#9 rD rA rB 0#1 1#1
  | .mulli rD rA simm => formD 7#6 rD rA simm
  | .divw rD rA rB => formXO 491#9 rD rA rB 0#1 0#1
  | .divwRc rD rA rB => formXO 491#9 rD rA rB 0#1 1#1
  | .divwo rD rA rB => formXO 491#9 rD rA rB 1#1 0#1
  | .divwoRc rD rA rB => formXO 491#9 rD rA rB 1#1 1#1
  | .divwu rD rA rB => formXO 459#9 rD rA rB 0#1 0#1
  | .divwuRc rD rA rB => formXO 459#9 rD rA rB 0#1 1#1
  | .divwuo rD rA rB => formXO 459#9 rD rA rB 1#1 0#1
  | .divwuoRc rD rA rB => formXO 459#9 rD rA rB 1#1 1#1
  | .cmp crfD l rA rB => formXCmp 0#10 crfD l rA rB
  | .cmpi crfD l rA simm => formDCmp 11#6 crfD l rA simm
  | .cmpl crfD l rA rB => formXCmp 32#10 crfD l rA rB
  | .cmpli crfD l rA uimm => formDCmp 10#6 crfD l rA uimm
  | .and rA rS rB => formX 28#10 rS rA rB 0#1
  | .andRc rA rS rB => formX 28#10 rS rA rB 1#1
  | .andc rA rS rB => formX 60#10 rS rA rB 0#1
  | .andcRc rA rS rB => formX 60#10 rS rA rB 1#1
  | .eqv rA rS rB => formX 284#10 rS rA rB 0#1
  | .eqvRc rA rS rB => formX 284#10 rS rA rB 1#1
  | .nand rA rS rB => formX 476#10 rS rA rB 0#1
  | .nandRc rA rS rB => formX 476#10 rS rA rB 1#1
  | .nor rA rS rB => formX 124#10 rS rA rB 0#1
  | .norRc rA rS rB => formX 124#10 rS rA rB 1#1
  | .or rA rS rB => formX 444#10 rS rA rB 0#1
  | .orRc rA rS rB => formX 444#10 rS rA rB 1#1
  | .orc rA rS rB => formX 412#10 rS rA rB 0#1
  | .orcRc rA rS rB => formX 412#10 rS rA rB 1#1
  | .xor rA rS rB => formX 316#10 rS rA rB 0#1
  | .xorRc rA rS rB => formX 316#10 rS rA rB 1#1
  | .andiRc rA rS uimm => formD 28#6 rS rA uimm
  | .andisRc rA rS uimm => formD 29#6 rS rA uimm
  | .ori rA rS uimm => formD 24#6 rS rA uimm
  | .oris rA rS uimm => formD 25#6 rS rA uimm
  | .xori rA rS uimm => formD 26#6 rS rA uimm
  | .xoris rA rS uimm => formD 27#6 rS rA uimm
  | .extsb rA rS => formX 954#10 rS rA 0#5 0#1
  | .extsbRc rA rS => formX 954#10 rS rA 0#5 1#1
  | .extsh rA rS => formX 922#10 rS rA 0#5 0#1
  | .extshRc rA rS => formX 922#10 rS rA 0#5 1#1
  | .cntlzw rA rS => formX 26#10 rS rA 0#5 0#1
  | .cntlzwRc rA rS => formX 26#10 rS rA 0#5 1#1
  | .slw rA rS rB => formX 24#10 rS rA rB 0#1
  | .slwRc rA rS rB => formX 24#10 rS rA rB 1#1
  | .srw rA rS rB => formX 536#10 rS rA rB 0#1
  | .srwRc rA rS rB => formX 536#10 rS rA rB 1#1
  | .sraw rA rS rB => formX 792#10 rS rA rB 0#1
  | .srawRc rA rS rB => formX 792#10 rS rA rB 1#1
  | .srawi rA rS sh => formX 824#10 rS rA sh 0#1
  | .srawiRc rA rS sh => formX 824#10 rS rA sh 1#1
  | .rlwimi rA rS sh mb me => formM 20#6 rS rA sh mb me 0#1
  | .rlwimiRc rA rS sh mb me => formM 20#6 rS rA sh mb me 1#1
  | .rlwinm rA rS sh mb me => formM 21#6 rS rA sh mb me 0#1
  | .rlwinmRc rA rS sh mb me => formM 21#6 rS rA sh mb me 1#1
  | .rlwnm rA rS rB mb me => formM 23#6 rS rA rB mb me 0#1
  | .rlwnmRc rA rS rB mb me => formM 23#6 rS rA rB mb me 1#1
  | .crand crbD crbA crbB => formXLcr 257#10 crbD crbA crbB
  | .crandc crbD crbA crbB => formXLcr 129#10 crbD crbA crbB
  | .creqv crbD crbA crbB => formXLcr 289#10 crbD crbA crbB
  | .crnand crbD crbA crbB => formXLcr 225#10 crbD crbA crbB
  | .crnor crbD crbA crbB => formXLcr 33#10 crbD crbA crbB
  | .cror crbD crbA crbB => formXLcr 449#10 crbD crbA crbB
  | .crorc crbD crbA crbB => formXLcr 417#10 crbD crbA crbB
  | .crxor crbD crbA crbB => formXLcr 193#10 crbD crbA crbB
  | .mcrf crfD crfS => formMcrf crfD crfS
  | .lbz rD rA d => formD 34#6 rD rA d
  | .lbzx rD rA rB => formX 87#10 rD rA rB 0#1
  | .lbzu rD rA d => formD 35#6 rD rA d
  | .lbzux rD rA rB => formX 119#10 rD rA rB 0#1
  | .lhz rD rA d => formD 40#6 rD rA d
  | .lhzx rD rA rB => formX 279#10 rD rA rB 0#1
  | .lhzu rD rA d => formD 41#6 rD rA d
  | .lhzux rD rA rB => formX 311#10 rD rA rB 0#1
  | .lha rD rA d => formD 42#6 rD rA d
  | .lhax rD rA rB => formX 343#10 rD rA rB 0#1
  | .lhau rD rA d => formD 43#6 rD rA d
  | .lhaux rD rA rB => formX 375#10 rD rA rB 0#1
  | .lwz rD rA d => formD 32#6 rD rA d
  | .lwzx rD rA rB => formX 23#10 rD rA rB 0#1
  | .lwzu rD rA d => formD 33#6 rD rA d
  | .lwzux rD rA rB => formX 55#10 rD rA rB 0#1
  | .lhbrx rD rA rB => formX 790#10 rD rA rB 0#1
  | .lwbrx rD rA rB => formX 534#10 rD rA rB 0#1
  | .lmw rD rA d => formD 46#6 rD rA d
  | .lswi rD rA n => formX 597#10 rD rA (byteCountField n) 0#1
  | .lswx rD rA rB => formX 533#10 rD rA rB 0#1
  | .stb rS rA d => formD 38#6 rS rA d
  | .stbx rS rA rB => formX 215#10 rS rA rB 0#1
  | .stbu rS rA d => formD 39#6 rS rA d
  | .stbux rS rA rB => formX 247#10 rS rA rB 0#1
  | .sth rS rA d => formD 44#6 rS rA d
  | .sthx rS rA rB => formX 407#10 rS rA rB 0#1
  | .sthu rS rA d => formD 45#6 rS rA d
  | .sthux rS rA rB => formX 439#10 rS rA rB 0#1
  | .stw rS rA d => formD 36#6 rS rA d
  | .stwx rS rA rB => formX 151#10 rS rA rB 0#1
  | .stwu rS rA d => formD 37#6 rS rA d
  | .stwux rS rA rB => formX 183#10 rS rA rB 0#1
  | .sthbrx rS rA rB => formX 918#10 rS rA rB 0#1
  | .stwbrx rS rA rB => formX 662#10 rS rA rB 0#1
  | .stmw rS rA d => formD 47#6 rS rA d
  | .stswi rS rA n => formX 725#10 rS rA (byteCountField n) 0#1
  | .stswx rS rA rB => formX 661#10 rS rA rB 0#1
  | .mfspr rD n => formSpr 339#10 rD n
  | .mtspr n rS => formSpr 467#10 rS n
  | .mfcr rD => formMfcr rD
  | .mtcrf crm rS => formMtcrf rS crm
  | .mcrxr crfD => formMcrxr crfD
  | .sc => formSC

/-- The bytes of a well-formed instruction, as the hardware stores them. -/
def encodeBytes (i : Instr) : List Byte := bytesOfWord (encode i)

end Sys2Proof
end

