-- ==== Sys2Proof/Machine/Bits.lean ====
section
/-! DEFINITION. Bit-level helpers on words: extension, single bits, bytes, rotation, masks, leading zeros
(00_scope.md R6 to R8; 40_helpers.md R136, R137, R139). -/

namespace Sys2Proof.Machine

/-- `zext_32(v)` (00_scope.md R8). -/
def zext32 {w : Nat} (v : BitVec w) : Word := v.setWidth 32

/-- `sext_32(v)` (00_scope.md R8). -/
def sext32 {w : Nat} (v : BitVec w) : Word := v.signExtend 32

/-- `zext_64(v)` (00_scope.md R8). -/
def zext64 (v : Word) : BitVec 64 := v.setWidth 64

/-- `sext_64(v)` (00_scope.md R8). -/
def sext64 (v : Word) : BitVec 64 := v.signExtend 64

/-- The word whose bits are all `b`. -/
def replicateBit (b : Bool) : Word := if b then 0xFFFFFFFF#32 else 0#32

/-- `v` with bit `k` (LSB-0, below 32) replaced by `b` (00_scope.md R9). -/
def setBit (v : Word) (k : Nat) (b : Bool) : Word :=
  (v &&& ~~~(1#32 <<< k)) ||| ((replicateBit b &&& 1#32) <<< k)

/-- `v` with the bits selected by `m` taken from `new` (00_scope.md R9). -/
def insertUnder (m new v : Word) : Word := (new &&& m) ||| (v &&& ~~~m)

/-- Byte `j` of a word, counted from the most significant: `v[31-8j : 24-8j]`, `j` = 0 to 3. -/
def byteOf (v : Word) (j : Nat) : Byte := (v >>> (24 - 8 * j)).setWidth 8

/-- `v` with byte `j`, counted from the most significant, replaced by `b`. -/
def setByte (v : Word) (j : Nat) (b : Byte) : Word :=
  insertUnder (0xFF#32 <<< (24 - 8 * j)) (b.setWidth 32 <<< (24 - 8 * j)) v

/-- `ROTL32(value, n)`, `n` = 0 to 31 (40_helpers.md R136): bit `i` moves to bit `(i + n) mod 32`. The amount has
five bits, so an amount outside R136's domain cannot be named. -/
def rotl32 (value : Word) (n : BitVec 5) : Word :=
  (value <<< n.toNat) ||| (value >>> (32 - n.toNat))

/-- The bits of `MASK` for a range that does not wrap, by R137's closed form:
`(0xFFFFFFFF >> start) AND (0xFFFFFFFF << (31 - end))`. -/
def maskPlain (start stop : Nat) : Word :=
  (0xFFFFFFFF#32 >>> start) &&& (0xFFFFFFFF#32 <<< (31 - stop))

/-- `MASK(start, end)` (40_helpers.md R137): the MSB-first bits `start` to `end`, wrapping past bit 31 when
`start > end`. -/
def mask (start stop : BitVec 5) : Word :=
  if start.toNat ≤ stop.toNat then maskPlain start.toNat stop.toNat
  else maskPlain start.toNat 31 ||| maskPlain 0 stop.toNat

/-- The number of consecutive zero bits of `value` from bit `k - 1` downward. -/
def leadingZerosBelow (value : Word) : Nat → Nat
  | 0 => 0
  | k + 1 => if value.getLsbD k then 0 else leadingZerosBelow value k + 1

/-- `CLZ32(value)`, 0 to 32 (40_helpers.md R139). -/
def clz32 (value : Word) : Nat := leadingZerosBelow value 32

end Sys2Proof.Machine
end

