-- ==== Sys2Proof/Config.lean ====
section
/-! DEFINITION. What an implementation fixes and the spec leaves open: the launch parameters (00_scope.md R5) and the
unspecified values of the undefined divisions (00_scope.md R11, 43_mul_div_cmp.md R231). -/

namespace Sys2Proof.Config

/-- `RESET_PC` of the launch state `State.reset` (70_reset_and_hazards.md R430). DESIGN CHOICE (log 2, unsafe): the
spec leaves the parameter open; the model takes 0, a multiple of 4. -/
def resetPc : Word := 0#32

/-- The value `RESET_STATE` gives every register of `State.reset` (70_reset_and_hazards.md R431). DESIGN CHOICE
(log 1, unsafe): the spec leaves it open. -/
def resetRegister : Word := 0#32

/-- `MEM_BASE` of `State.reset` (20_memory.md R66). DESIGN CHOICE (log 4, unsafe): R66 allows a total memory. -/
def memBase : Nat := 0

/-- `MEM_SIZE` of `State.reset` (20_memory.md R66). DESIGN CHOICE (log 4, unsafe): the whole address space. -/
def memSize : Nat := 4294967296

/-- What an implemented byte that nothing has written reads as. DESIGN CHOICE (log 3, unsafe): the spec leaves the
initial memory to `RESET_STATE`. It equals the value R66 gives a byte outside the implemented range. -/
def unwrittenByte : Byte := 0#8

/-- The eight divide instructions: each occurrence of an unspecified value belongs to one of them. -/
inductive DivideForm where
  | divw | divwRc | divwo | divwoRc | divwu | divwuRc | divwuo | divwuoRc
  deriving DecidableEq, Repr

/-- `UNSPECIFIED_32` (00_scope.md R11, 43_mul_div_cmp.md R231): the result of an undefined division, a FREE VALUE
(log 5, safe). It has no body: nothing can be proved of it. It is applied to the instruction form, to the draw
counter of the state (so that each occurrence is a fresh draw) and to the dividend and divisor. -/
opaque unspecified32 : DivideForm → Nat → Word → Word → Word

/-- `UNSPECIFIED_1` (00_scope.md R11, 43_mul_div_cmp.md R231): OV of an overflow-recording division by zero, a FREE
VALUE (log 6, safe), applied like `unspecified32`. -/
opaque unspecified1 : DivideForm → Nat → Word → Word → Bool

end Sys2Proof.Config
end

