-- ==== Sys2Proof/Machine/State.lean ====
section
/-! DEFINITION. The state of the core as plain data: every piece of state 10_state.md gives the machine, the launch
state of 70_reset_and_hazards.md R431, and `State.reset`. INVENTORY.md lists each field with its rule. -/

namespace Sys2Proof.Machine

/-- The cause a set `FATAL` latch holds (10_state.md R36, 60_exceptions.md R401). -/
inductive FatalCause where
  /-- `SPR`: `mfspr` or `mtspr` with a number that is not in `SPR_MAP`. -/
  | spr
  /-- `UNDECODED`: the fetched word matches no instruction. -/
  | undecoded
  deriving DecidableEq, Repr

/-- The memory: the implemented range (20_memory.md R66) and the bytes in it that differ from
`Config.unwrittenByte`, as address and byte pairs with strictly rising addresses. -/
structure Memory where
  /-- `MEM_BASE` (20_memory.md R66). -/
  base : Nat
  /-- `MEM_SIZE` (20_memory.md R66). -/
  size : Nat
  /-- The listed bytes, in canonical form (`Memory.wf`). -/
  cells : List Host.Cell
  deriving DecidableEq, Repr

/-- The state of the core between two instructions. -/
structure State where
  /-- `GPR[0]` to `GPR[31]` (10_state.md R20). -/
  gpr : Vector Word 32
  /-- The address of the next instruction (10_state.md R22). -/
  pc : Word
  /-- The condition register (10_state.md R24). -/
  cr : Word
  /-- The fixed-point exception register (10_state.md R26). -/
  xer : Word
  /-- The link register (10_state.md R29). -/
  lr : Word
  /-- The count register (10_state.md R30). -/
  ctr : Word
  /-- Software SPR 256 (10_state.md R31). -/
  usprg0 : Word
  /-- Software SPR 260 (10_state.md R31). -/
  sprg4 : Word
  /-- Software SPR 261 (10_state.md R31). -/
  sprg5 : Word
  /-- Software SPR 262 (10_state.md R31). -/
  sprg6 : Word
  /-- Software SPR 263 (10_state.md R31). -/
  sprg7 : Word
  /-- The fatal latch: clear (`none`) or a cause (10_state.md R36). -/
  fatal : Option FatalCause
  /-- The memory the core reaches (10_state.md R34). -/
  mem : Memory
  /-- The model's own field (log 5): how many unspecified values have been drawn (00_scope.md R11). -/
  draws : Nat
  deriving DecidableEq, Repr

/-- The faults of a step. There is none: the core raises no exception (60_exceptions.md R400; log 8). Safe. -/
inductive Fault where
  deriving DecidableEq, Repr

/-- The refusals of a step. -/
inductive Refusal where
  /-- Raised by an arm of `exec` for an instruction that has no meaning yet. Safe. -/
  | notModelled (mnemonic : String)
  /-- Raised by the step when `pc` is not a multiple of 4, a state the spec gives no behaviour and says a model
  should refuse (10_state.md R23, 93_implementation_defined.md U9; log 7). Safe. -/
  | misalignedPc
  deriving DecidableEq, Repr

/-- `RESET_STATE` (70_reset_and_hazards.md R431): what the host leaves in every register and in memory. -/
structure ResetState where
  gpr : Vector Word 32
  cr : Word
  xer : Word
  lr : Word
  ctr : Word
  usprg0 : Word
  sprg4 : Word
  sprg5 : Word
  sprg6 : Word
  sprg7 : Word
  mem : Memory
  deriving DecidableEq, Repr

/-- The launch state for given parameters (10_state.md R40, 70_reset_and_hazards.md R430, R431): `pc` is `RESET_PC`,
`FATAL` is clear, everything else is as `RESET_STATE` gives it. -/
def State.launch (resetPc : Word) (r : ResetState) : State :=
  { gpr := r.gpr, pc := resetPc, cr := r.cr, xer := r.xer, lr := r.lr, ctr := r.ctr
    usprg0 := r.usprg0, sprg4 := r.sprg4, sprg5 := r.sprg5, sprg6 := r.sprg6, sprg7 := r.sprg7
    fatal := none, mem := r.mem, draws := 0 }

/-- The `RESET_STATE` the model chooses for `State.reset` (logs 1, 3, 4): every register at
`Config.resetRegister`, every byte unwritten, the whole address space implemented. -/
def ResetState.chosen : ResetState :=
  { gpr := Vector.replicate 32 Config.resetRegister
    cr := Config.resetRegister, xer := Config.resetRegister
    lr := Config.resetRegister, ctr := Config.resetRegister
    usprg0 := Config.resetRegister, sprg4 := Config.resetRegister, sprg5 := Config.resetRegister
    sprg6 := Config.resetRegister, sprg7 := Config.resetRegister
    mem := { base := Config.memBase, size := Config.memSize, cells := [] } }

/-- The machine right after reset: the launch with the model's choice of the open parameters. -/
def State.reset : State := State.launch Config.resetPc ResetState.chosen

end Sys2Proof.Machine
end

