-- ==== Sys2Proof/Machine/Memory.lean ====
section
/-! DEFINITION. The memory operations of 20_memory.md: the byte accesses with the out-of-range default of R66, the
big-endian accesses of R62 and R63, the byte-reversed ones of R68, and the canonical form `Memory.wf`. -/

namespace Sys2Proof.Machine

/-- The byte address `a` is implemented: `MEM_BASE ≤ a < MEM_BASE + MEM_SIZE` (20_memory.md R66). -/
def Memory.implements (m : Memory) (a : Word) : Bool :=
  m.base ≤ a.toNat && a.toNat < m.base + m.size

/-- What the listed cells hold at address `k`; an unlisted address reads `Config.unwrittenByte` (log 3). -/
def lookupCell : List Host.Cell → Nat → Byte
  | [], _ => Config.unwrittenByte
  | (a, b) :: rest, k => if a = k then b else lookupCell rest k

/-- The cells without the one at `k`. -/
def dropCell (k : Nat) (cells : List Host.Cell) : List Host.Cell := cells.filter fun c => c.1 ≠ k

/-- The cell `(k, b)` placed before the first cell of a larger address. -/
def placeCell (k : Nat) (b : Byte) : List Host.Cell → List Host.Cell
  | [] => [(k, b)]
  | c :: rest => if k < c.1 then (k, b) :: c :: rest else c :: placeCell k b rest

/-- The cells with the byte at `k` replaced by `b`, in canonical form: writing the value an unlisted address reads as
removes the cell. -/
def insertCell (k : Nat) (b : Byte) (cells : List Host.Cell) : List Host.Cell :=
  if b = Config.unwrittenByte then dropCell k cells else placeCell k b (dropCell k cells)

/-- `byte(a)` of 20_memory.md R62: the stored byte, or 0x00 outside the implemented range (R66). -/
def Memory.readByte (m : Memory) (a : Word) : Byte :=
  if m.implements a then lookupCell m.cells a.toNat else 0#8

/-- `setbyte(a, b)` of 20_memory.md R63: nothing happens outside the implemented range (R66). -/
def Memory.writeByte (m : Memory) (a : Word) (b : Byte) : Memory :=
  if m.implements a then { m with cells := insertCell a.toNat b m.cells } else m

/-- `MemRead(a, 2)`, big-endian (20_memory.md R62). -/
def Memory.readHalf (m : Memory) (a : Word) : Half := m.readByte a ++ m.readByte (a + 1)

/-- `MemRead(a, 4)`, big-endian (20_memory.md R62). -/
def Memory.readWord (m : Memory) (a : Word) : Word :=
  m.readByte a ++ m.readByte (a + 1) ++ m.readByte (a + 2) ++ m.readByte (a + 3)

/-- `MemWrite(a, 2, v)` of the low halfword of `v`, big-endian (20_memory.md R63). -/
def Memory.writeHalf (m : Memory) (a v : Word) : Memory :=
  (m.writeByte a (byteOf v 2)).writeByte (a + 1) (byteOf v 3)

/-- `MemWrite(a, 4, v)`, big-endian (20_memory.md R63). -/
def Memory.writeWord (m : Memory) (a v : Word) : Memory :=
  (((m.writeByte a (byteOf v 0)).writeByte (a + 1) (byteOf v 1)).writeByte (a + 2) (byteOf v 2)).writeByte
    (a + 3) (byteOf v 3)

/-- `MemReadRev(a, 2)` (20_memory.md R68). -/
def Memory.readHalfRev (m : Memory) (a : Word) : Half := m.readByte (a + 1) ++ m.readByte a

/-- `MemReadRev(a, 4)` (20_memory.md R68). -/
def Memory.readWordRev (m : Memory) (a : Word) : Word :=
  m.readByte (a + 3) ++ m.readByte (a + 2) ++ m.readByte (a + 1) ++ m.readByte a

/-- `MemWriteRev(a, 2, v)` of the low halfword of `v` (20_memory.md R68). -/
def Memory.writeHalfRev (m : Memory) (a v : Word) : Memory :=
  (m.writeByte a (byteOf v 3)).writeByte (a + 1) (byteOf v 2)

/-- `MemWriteRev(a, 4, v)` (20_memory.md R68). -/
def Memory.writeWordRev (m : Memory) (a v : Word) : Memory :=
  (((m.writeByte a (byteOf v 3)).writeByte (a + 1) (byteOf v 2)).writeByte (a + 2) (byteOf v 1)).writeByte
    (a + 3) (byteOf v 0)

/-- One listed cell is as the canonical form wants it: inside the address space and the implemented range, and not
equal to what an unlisted address reads as. -/
def Memory.cellOk (m : Memory) (c : Host.Cell) : Bool :=
  c.1 < 4294967296 && m.base ≤ c.1 && c.1 < m.base + m.size && c.2 ≠ Config.unwrittenByte

/-- The memory's canonical form: addresses strictly rising, every cell as `cellOk` says. -/
def Memory.wf (m : Memory) : Bool := decide (m.cells.Pairwise fun c d => c.1 < d.1) && m.cells.all m.cellOk

end Sys2Proof.Machine
end

