-- ==== Sys2Proof/Machine/Ops.lean ====
section
/-! DEFINITION. The named operations every meaning is written with: register reads and writes, the advance of `pc`,
and the two ways an instruction ends (completion, and the fatal stop of 60_exceptions.md R402). -/

namespace Sys2Proof.Machine

/-- How a meaning answers. -/
abbrev Result := Host.Outcome State Fault Refusal

/-- `GPR[r]` (00_scope.md R9). Register 0 is an ordinary register (10_state.md R21). -/
def State.readGpr (s : State) (r : Reg) : Word := s.gpr[r.toNat]'r.isLt

/-- `GPR[r] <- v` (00_scope.md R9): all 32 bits are replaced. -/
def State.writeGpr (s : State) (r : Reg) (v : Word) : State :=
  { s with gpr := s.gpr.set r.toNat v r.isLt }

/-- `(rA = 0) ? 0 : GPR[rA]`, the base of 47_load.md R330 and of `addi`, `addis` (10_state.md R21): the test is on
the register number. -/
def State.readBase (s : State) (r : Reg) : Word := if r = 0#5 then 0#32 else s.readGpr r

/-- `pc <- v`. -/
def State.setPc (s : State) (v : Word) : State := { s with pc := v }

/-- `CR <- v`. -/
def State.setCr (s : State) (v : Word) : State := { s with cr := v }

/-- `XER <- v`. -/
def State.setXer (s : State) (v : Word) : State := { s with xer := v }

/-- `LR <- v`. -/
def State.setLr (s : State) (v : Word) : State := { s with lr := v }

/-- `CTR <- v`. -/
def State.setCtr (s : State) (v : Word) : State := { s with ctr := v }

/-- The state with its memory replaced. -/
def State.setMem (s : State) (m : Memory) : State := { s with mem := m }

/-- `(CIA + 4)[31:0]`, the address after the instruction (10_state.md R23); it wraps. -/
def State.nextPc (s : State) : Word := s.pc + 4#32

/-- The end of every instruction that is not a taken branch: `pc <- (CIA + 4)[31:0]` (10_state.md R23). -/
def State.complete (s : State) : Result := .next (s.setPc s.nextPc)

/-- `FATAL_STOP(cause)` (60_exceptions.md R402): only the latch changes, `pc` stays at the instruction. -/
def State.fatalStop (s : State) (cause : FatalCause) : State := { s with fatal := some cause }

/-- An instruction that ends in the fatal stop. It takes a next state: the halted core. -/
def State.halt (s : State) (cause : FatalCause) : Result := .next (s.fatalStop cause)

end Sys2Proof.Machine
end

