-- ==== Sys2Proof/Machine/Flags.lean ====
section
/-! DEFINITION. The condition register and the XER: their fields, and every flag computation the spec gives
(40_helpers.md R130 to R135, R141; 43_mul_div_cmp.md R231, R232). -/

namespace Sys2Proof.Machine

/-! ### XER fields (10_state.md R26) -/

/-- `XER.SO = XER[31]`. -/
def State.so (s : State) : Bool := s.xer.getLsbD 31

/-- `XER.OV = XER[30]`. -/
def State.ov (s : State) : Bool := s.xer.getLsbD 30

/-- `XER.CA = XER[29]`. -/
def State.ca (s : State) : Bool := s.xer.getLsbD 29

/-- `XER.TBC = XER[6:0]`, the byte count of `lswx` and `stswx`. -/
def State.tbc (s : State) : Nat := (s.xer.setWidth 7).toNat

/-- `XER.CA <- b`; no other XER bit changes. -/
def State.setCa (s : State) (b : Bool) : State := s.setXer (setBit s.xer 29 b)

/-- The overflow contract of 40_helpers.md R131, R133, R134: OV is set or cleared; SO is set with OV and never
cleared here. -/
def State.recordOverflow (s : State) (overflow : Bool) : State :=
  let x := setBit s.xer 30 overflow
  s.setXer (if overflow then setBit x 31 true else x)

/-! ### CR accessors (40_helpers.md R141) -/

/-- `CRBIT(i) = CR[31-i]`, the bit with MSB-first number `i`. -/
def State.crBit (s : State) (i : CrBit) : Bool := s.cr.getLsbD (31 - i.toNat)

/-- `CRBIT_WRITE(i, b)`: no other CR bit changes. -/
def State.writeCrBit (s : State) (i : CrBit) (b : Bool) : State := s.setCr (setBit s.cr (31 - i.toNat) b)

/-- `CRF(n) = CR[31-4n : 28-4n]`. -/
def State.crField (s : State) (n : CrField) : BitVec 4 := (s.cr >>> (28 - 4 * n.toNat)).setWidth 4

/-- `CRF_WRITE(n, v)`: the other seven fields are unchanged. -/
def State.writeCrField (s : State) (n : CrField) (v : BitVec 4) : State :=
  s.setCr (insertUnder (0xF#32 <<< (28 - 4 * n.toNat)) (v.setWidth 32 <<< (28 - 4 * n.toNat)) s.cr)

/-- A CR field value from its LT, GT, EQ and SO bits, LT the most significant (10_state.md R24). -/
def crFieldOf (lt gt eq so : Bool) : BitVec 4 :=
  BitVec.ofBool lt ++ BitVec.ofBool gt ++ BitVec.ofBool eq ++ BitVec.ofBool so

/-- `CR0UPDATE(result)` (40_helpers.md R130): SO is read at the moment of the call. -/
def State.cr0Update (s : State) (result : Word) : State :=
  let lt := result.msb
  let eq := result == 0#32
  s.writeCrField 0#3 (crFieldOf lt (!lt && !eq) eq s.so)

/-- The record form's CR0 update: done when `rc` is set. -/
def State.recordCr0 (s : State) (rc : Bool) (result : Word) : State :=
  if rc then s.cr0Update result else s

/-! ### Overflow and carry detection -/

/-- `OVADD`'s test (40_helpers.md R131): the exact signed sum of the three addends differs from the truncated
result read as signed. -/
def addOverflows (result s1 s2 s3 : Word) : Bool := s1.toInt + s2.toInt + s3.toInt != result.toInt

/-- `OVADD(result, s1, s2, s3)` (40_helpers.md R131). -/
def State.ovAdd (s : State) (result s1 s2 s3 : Word) : State :=
  s.recordOverflow (addOverflows result s1 s2 s3)

/-- `CAADD`'s test (40_helpers.md R132): the unsigned sum of the three addends exceeds 0xFFFFFFFF. -/
def addCarries (s1 s2 s3 : Word) : Bool := s1.toNat + s2.toNat + s3.toNat > 0xFFFFFFFF

/-- `CAADD(result, s1, s2, s3)` (40_helpers.md R132); the result is not needed for the test. -/
def State.caAdd (s : State) (s1 s2 s3 : Word) : State := s.setCa (addCarries s1 s2 s3)

/-- `OVMUL(prod)` (40_helpers.md R133): the signed 64-bit product is not the extension of its low word. -/
def State.ovMul (s : State) (prod : BitVec 64) : State :=
  s.recordOverflow (prod != (prod.setWidth 32).signExtend 64)

/-! ### Division (43_mul_div_cmp.md R231) -/

/-- The signed division has no defined quotient: a zero divisor, or -2^31 divided by -1. -/
def divSignedUndefined (a b : Word) : Bool :=
  b == 0#32 || (a == 0x80000000#32 && b == 0xFFFFFFFF#32)

/-- One draw of the unspecified values: the counter advances (00_scope.md R11, log 5). -/
def State.draw (s : State) : State := { s with draws := s.draws + 1 }

/-- `OVDIVS` (40_helpers.md R134): an unspecified bit for a zero divisor, set for -2^31 / -1, else cleared. -/
def ovDivSigned (form : Config.DivideForm) (draws : Nat) (a b : Word) : Bool :=
  if b = 0#32 then Config.unspecified1 form draws a b else divSignedUndefined a b

/-- `OVDIVU` (40_helpers.md R135): an unspecified bit for a zero divisor, else cleared. -/
def ovDivUnsigned (form : Config.DivideForm) (draws : Nat) (a b : Word) : Bool :=
  if b = 0#32 then Config.unspecified1 form draws a b else false

/-! ### Compare (43_mul_div_cmp.md R232) -/

/-- The field a compare writes: LT, GT, EQ and a copy of `XER.SO`. -/
def State.writeCompare (s : State) (n : CrField) (lt gt : Bool) : State :=
  s.writeCrField n (crFieldOf lt gt (!lt && !gt) s.so)

end Sys2Proof.Machine
end

