-- ==== Sys2Proof/Machine/Operands.lean ====
section
/-! DEFINITION. The operand forms: immediates and displacements (30_encoding.md R108 to R114), effective addresses
(47_load.md R330), the shift amounts (45_shift_rotate.md R295) and the incoming carry (42_add_sub.md R171). -/

namespace Sys2Proof.Machine

/-- An immediate in the upper halfword, `IMM || 0x0000` (30_encoding.md R108, R109: `addis andis. oris xoris`). -/
def immShifted (imm : BitVec 16) : Word := imm ++ 0#16

/-- The displacement `sext_32(LI || 0b00)` of `b` (30_encoding.md R111). -/
def dispLI (li : BitVec 24) : Word := sext32 (li ++ 0#2)

/-- The displacement `sext_32(BD || 0b00)` of `bc` (30_encoding.md R112). -/
def dispBD (bd : BitVec 14) : Word := sext32 (bd ++ 0#2)

/-- The target of a displacement branch (41_branch.md R151): relative to `CIA`, or the displacement itself. -/
def State.dispTarget (s : State) (absolute : Bool) (disp : Word) : Word :=
  if absolute then disp else s.pc + disp

/-- A register target with its low two bits cleared (41_branch.md R153). -/
def alignTarget (v : Word) : Word := v &&& 0xFFFFFFFC#32

/-- The D-form address, with or without update: `((rA = 0 ? 0 : GPR[rA]) + sext_32(D))[31:0]` (47_load.md R330). -/
def State.eaD (s : State) (rA : Reg) (d : BitVec 16) : Word := s.readBase rA + sext32 d

/-- The indexed address: `((rA = 0 ? 0 : GPR[rA]) + GPR[rB])[31:0]` (47_load.md R330). -/
def State.eaX (s : State) (rA rB : Reg) : Word := s.readBase rA + s.readGpr rB

/-- The indexed-update address: `(GPR[rA] + GPR[rB])[31:0]` with the real r0 (47_load.md R330). -/
def State.eaUX (s : State) (rA rB : Reg) : Word := s.readGpr rA + s.readGpr rB

/-- The 6-bit shift amount `GPR[rB][5:0]` of `slw`, `srw`, `sraw` (45_shift_rotate.md R296, R298, R300). -/
def State.shiftAmount (s : State) (rB : Reg) : BitVec 6 := (s.readGpr rB).setWidth 6

/-- The 5-bit rotate amount `GPR[rB][4:0]` of `rlwnm` (45_shift_rotate.md R308). -/
def State.rotateAmount (s : State) (rB : Reg) : BitVec 5 := (s.readGpr rB).setWidth 5

/-- The incoming carry `XER.CA` as an addend (42_add_sub.md R171). -/
def State.carryIn (s : State) : Word := if s.ca then 1#32 else 0#32

/-- The 32-bit mask of `mtcrf` (30_encoding.md R114): bit `CRM[7-k]` replicated over CR field `k`. -/
def crmMask (crm : BitVec 8) : Word :=
  (List.range 8).foldl (fun m k => if crm.getLsbD (7 - k) then m ||| (0xF#32 <<< (28 - 4 * k)) else m) 0#32

end Sys2Proof.Machine
end

