-- ==== Sys2Proof/Machine/AddSub.lean ====
section
/-! DEFINITION. Add, subtract and negate (42_add_sub.md R170 to R220): one three-addend sum, with the carry, overflow
and CR0 updates each mnemonic asks for. -/

namespace Sys2Proof.Machine

/-- Which of the updates of R170 steps 3 to 5 a mnemonic performs: CAADD, OVADD (`OE = 1`), CR0UPDATE (`Rc = 1`). -/
structure SumForm where
  carrying : Bool
  oe : Bool
  rc : Bool
  deriving DecidableEq, Repr

/-- The family pattern of R170: the truncated sum of the three addends, then CAADD, OVADD and CR0UPDATE as the form
asks (XER before CR0, 40_helpers.md R140), then the destination write, then `pc`. The addends are read by the caller,
before any write. -/
def addThree (f : SumForm) (rD : Reg) (s1 s2 s3 : Word) (s : State) : Result :=
  let result := s1 + s2 + s3
  let s := if f.carrying then s.caAdd s1 s2 s3 else s
  let s := if f.oe then s.ovAdd result s1 s2 s3 else s
  ((s.recordCr0 f.rc result).writeGpr rD result).complete

/-- `add`: `rA + rB` (R172). -/
def sumAdd (f : SumForm) (rD rA rB : Reg) (s : State) : Result :=
  addThree f rD (s.readGpr rA) (s.readGpr rB) 0#32 s

/-- `adde`: `rA + rB + CA` (R180). -/
def sumAdde (f : SumForm) (rD rA rB : Reg) (s : State) : Result :=
  addThree f rD (s.readGpr rA) (s.readGpr rB) s.carryIn s

/-- `addme`: `rA + CA + 0xFFFFFFFF` (R184). -/
def sumAddme (f : SumForm) (rD rA : Reg) (s : State) : Result :=
  addThree f rD (s.readGpr rA) s.carryIn 0xFFFFFFFF#32 s

/-- `addze`: `rA + CA` (R188). -/
def sumAddze (f : SumForm) (rD rA : Reg) (s : State) : Result :=
  addThree f rD (s.readGpr rA) s.carryIn 0#32 s

/-- `subf`: `NOT rA + rB + 1` (R171, R192). -/
def sumSubf (f : SumForm) (rD rA rB : Reg) (s : State) : Result :=
  addThree f rD (~~~s.readGpr rA) (s.readGpr rB) 1#32 s

/-- `subfe`: `NOT rA + rB + CA` (R200). -/
def sumSubfe (f : SumForm) (rD rA rB : Reg) (s : State) : Result :=
  addThree f rD (~~~s.readGpr rA) (s.readGpr rB) s.carryIn s

/-- `subfme`: `NOT rA + CA + 0xFFFFFFFF` (R204). -/
def sumSubfme (f : SumForm) (rD rA : Reg) (s : State) : Result :=
  addThree f rD (~~~s.readGpr rA) s.carryIn 0xFFFFFFFF#32 s

/-- `subfze`: `NOT rA + CA` (R208). -/
def sumSubfze (f : SumForm) (rD rA : Reg) (s : State) : Result :=
  addThree f rD (~~~s.readGpr rA) s.carryIn 0#32 s

/-- `neg`: `NOT rA + 1` (R212). -/
def sumNeg (f : SumForm) (rD rA : Reg) (s : State) : Result :=
  addThree f rD (~~~s.readGpr rA) 1#32 0#32 s

/-- `add` (R172). -/
def execAdd (rD rA rB : Reg) (s : State) : Result :=
  sumAdd ⟨false, false, false⟩ rD rA rB s

/-- `add.` (R173). -/
def execAddRc (rD rA rB : Reg) (s : State) : Result :=
  sumAdd ⟨false, false, true⟩ rD rA rB s

/-- `addo` (R174). -/
def execAddo (rD rA rB : Reg) (s : State) : Result :=
  sumAdd ⟨false, true, false⟩ rD rA rB s

/-- `addo.` (R175). -/
def execAddoRc (rD rA rB : Reg) (s : State) : Result :=
  sumAdd ⟨false, true, true⟩ rD rA rB s

/-- `addc` (R176). -/
def execAddc (rD rA rB : Reg) (s : State) : Result :=
  sumAdd ⟨true, false, false⟩ rD rA rB s

/-- `addc.` (R177). -/
def execAddcRc (rD rA rB : Reg) (s : State) : Result :=
  sumAdd ⟨true, false, true⟩ rD rA rB s

/-- `addco` (R178). -/
def execAddco (rD rA rB : Reg) (s : State) : Result :=
  sumAdd ⟨true, true, false⟩ rD rA rB s

/-- `addco.` (R179). -/
def execAddcoRc (rD rA rB : Reg) (s : State) : Result :=
  sumAdd ⟨true, true, true⟩ rD rA rB s

/-- `adde` (R180). -/
def execAdde (rD rA rB : Reg) (s : State) : Result :=
  sumAdde ⟨true, false, false⟩ rD rA rB s

/-- `adde.` (R181). -/
def execAddeRc (rD rA rB : Reg) (s : State) : Result :=
  sumAdde ⟨true, false, true⟩ rD rA rB s

/-- `addeo` (R182). -/
def execAddeo (rD rA rB : Reg) (s : State) : Result :=
  sumAdde ⟨true, true, false⟩ rD rA rB s

/-- `addeo.` (R183). -/
def execAddeoRc (rD rA rB : Reg) (s : State) : Result :=
  sumAdde ⟨true, true, true⟩ rD rA rB s

/-- `addme` (R184). -/
def execAddme (rD rA : Reg) (s : State) : Result :=
  sumAddme ⟨true, false, false⟩ rD rA s

/-- `addme.` (R185). -/
def execAddmeRc (rD rA : Reg) (s : State) : Result :=
  sumAddme ⟨true, false, true⟩ rD rA s

/-- `addmeo` (R186). -/
def execAddmeo (rD rA : Reg) (s : State) : Result :=
  sumAddme ⟨true, true, false⟩ rD rA s

/-- `addmeo.` (R187). -/
def execAddmeoRc (rD rA : Reg) (s : State) : Result :=
  sumAddme ⟨true, true, true⟩ rD rA s

/-- `addze` (R188). -/
def execAddze (rD rA : Reg) (s : State) : Result :=
  sumAddze ⟨true, false, false⟩ rD rA s

/-- `addze.` (R189). -/
def execAddzeRc (rD rA : Reg) (s : State) : Result :=
  sumAddze ⟨true, false, true⟩ rD rA s

/-- `addzeo` (R190). -/
def execAddzeo (rD rA : Reg) (s : State) : Result :=
  sumAddze ⟨true, true, false⟩ rD rA s

/-- `addzeo.` (R191). -/
def execAddzeoRc (rD rA : Reg) (s : State) : Result :=
  sumAddze ⟨true, true, true⟩ rD rA s

/-- `subf` (R192). -/
def execSubf (rD rA rB : Reg) (s : State) : Result :=
  sumSubf ⟨false, false, false⟩ rD rA rB s

/-- `subf.` (R193). -/
def execSubfRc (rD rA rB : Reg) (s : State) : Result :=
  sumSubf ⟨false, false, true⟩ rD rA rB s

/-- `subfo` (R194). -/
def execSubfo (rD rA rB : Reg) (s : State) : Result :=
  sumSubf ⟨false, true, false⟩ rD rA rB s

/-- `subfo.` (R195). -/
def execSubfoRc (rD rA rB : Reg) (s : State) : Result :=
  sumSubf ⟨false, true, true⟩ rD rA rB s

/-- `subfc` (R196). -/
def execSubfc (rD rA rB : Reg) (s : State) : Result :=
  sumSubf ⟨true, false, false⟩ rD rA rB s

/-- `subfc.` (R197). -/
def execSubfcRc (rD rA rB : Reg) (s : State) : Result :=
  sumSubf ⟨true, false, true⟩ rD rA rB s

/-- `subfco` (R198). -/
def execSubfco (rD rA rB : Reg) (s : State) : Result :=
  sumSubf ⟨true, true, false⟩ rD rA rB s

/-- `subfco.` (R199). -/
def execSubfcoRc (rD rA rB : Reg) (s : State) : Result :=
  sumSubf ⟨true, true, true⟩ rD rA rB s

/-- `subfe` (R200). -/
def execSubfe (rD rA rB : Reg) (s : State) : Result :=
  sumSubfe ⟨true, false, false⟩ rD rA rB s

/-- `subfe.` (R201). -/
def execSubfeRc (rD rA rB : Reg) (s : State) : Result :=
  sumSubfe ⟨true, false, true⟩ rD rA rB s

/-- `subfeo` (R202). -/
def execSubfeo (rD rA rB : Reg) (s : State) : Result :=
  sumSubfe ⟨true, true, false⟩ rD rA rB s

/-- `subfeo.` (R203). -/
def execSubfeoRc (rD rA rB : Reg) (s : State) : Result :=
  sumSubfe ⟨true, true, true⟩ rD rA rB s

/-- `subfme` (R204). -/
def execSubfme (rD rA : Reg) (s : State) : Result :=
  sumSubfme ⟨true, false, false⟩ rD rA s

/-- `subfme.` (R205). -/
def execSubfmeRc (rD rA : Reg) (s : State) : Result :=
  sumSubfme ⟨true, false, true⟩ rD rA s

/-- `subfmeo` (R206). -/
def execSubfmeo (rD rA : Reg) (s : State) : Result :=
  sumSubfme ⟨true, true, false⟩ rD rA s

/-- `subfmeo.` (R207). -/
def execSubfmeoRc (rD rA : Reg) (s : State) : Result :=
  sumSubfme ⟨true, true, true⟩ rD rA s

/-- `subfze` (R208). -/
def execSubfze (rD rA : Reg) (s : State) : Result :=
  sumSubfze ⟨true, false, false⟩ rD rA s

/-- `subfze.` (R209). -/
def execSubfzeRc (rD rA : Reg) (s : State) : Result :=
  sumSubfze ⟨true, false, true⟩ rD rA s

/-- `subfzeo` (R210). -/
def execSubfzeo (rD rA : Reg) (s : State) : Result :=
  sumSubfze ⟨true, true, false⟩ rD rA s

/-- `subfzeo.` (R211). -/
def execSubfzeoRc (rD rA : Reg) (s : State) : Result :=
  sumSubfze ⟨true, true, true⟩ rD rA s

/-- `neg` (R212). -/
def execNeg (rD rA : Reg) (s : State) : Result :=
  sumNeg ⟨false, false, false⟩ rD rA s

/-- `neg.` (R213). -/
def execNegRc (rD rA : Reg) (s : State) : Result :=
  sumNeg ⟨false, false, true⟩ rD rA s

/-- `nego` (R214). -/
def execNego (rD rA : Reg) (s : State) : Result :=
  sumNeg ⟨false, true, false⟩ rD rA s

/-- `nego.` (R215). -/
def execNegoRc (rD rA : Reg) (s : State) : Result :=
  sumNeg ⟨false, true, true⟩ rD rA s

/-- `addi` (R216). -/
def execAddi (rD rA : Reg) (simm : BitVec 16) (s : State) : Result :=
  addThree ⟨false, false, false⟩ rD (s.readBase rA) (sext32 simm) 0#32 s

/-- `addis` (R217). -/
def execAddis (rD rA : Reg) (simm : BitVec 16) (s : State) : Result :=
  addThree ⟨false, false, false⟩ rD (s.readBase rA) (immShifted simm) 0#32 s

/-- `addic` (R218). -/
def execAddic (rD rA : Reg) (simm : BitVec 16) (s : State) : Result :=
  addThree ⟨true, false, false⟩ rD (s.readGpr rA) (sext32 simm) 0#32 s

/-- `addic.` (R219). -/
def execAddicRc (rD rA : Reg) (simm : BitVec 16) (s : State) : Result :=
  addThree ⟨true, false, true⟩ rD (s.readGpr rA) (sext32 simm) 0#32 s

/-- `subfic` (R220). -/
def execSubfic (rD rA : Reg) (simm : BitVec 16) (s : State) : Result :=
  addThree ⟨true, false, false⟩ rD (~~~s.readGpr rA) (sext32 simm) 1#32 s

end Sys2Proof.Machine
end

