-- ==== Sys2Proof/Machine/Branch.lean ====
section
/-! DEFINITION. The branches (41_branch.md R150 to R167), each a thin call of one of the shared shapes of R154. -/

namespace Sys2Proof.Machine

/-- Step 3 of R154, the link (41_branch.md R152): `LR <- (CIA + 4)[31:0]` when `LK` is 1, taken or not. -/
def State.link (s : State) (lk : Bool) : State := if lk then s.setLr s.nextPc else s

/-- Step 4 of R154, the commit: `pc` becomes the target, or the next address when the branch is not taken. -/
def State.commitBranch (s : State) (taken : Bool) (target : Word) : Result :=
  .next (s.setPc (if taken then target else s.nextPc))

/-- `bo2 = BO[2]` is 0: the branch decrements and tests CTR (40_helpers.md R138, 30_encoding.md R117). -/
def boDecrements (bo : BitVec 5) : Bool := !bo.getLsbD 2

/-- `BRCOND`'s new CTR (40_helpers.md R138): decremented first, wrapping, unless `bo2` is 1. -/
def branchCtr (ctr : Word) (bo : BitVec 5) : Word := if boDecrements bo then ctr - 1#32 else ctr

/-- `BRCOND`'s CTR part (40_helpers.md R138): `bo2 = 1`, or the new CTR is nonzero xor `bo3 = BO[1]` is 1. -/
def branchCtrOk (newCtr : Word) (bo : BitVec 5) : Bool :=
  bo.getLsbD 2 || ((newCtr != 0#32) ^^ bo.getLsbD 1)

/-- `BRCOND`'s CR part (40_helpers.md R138): `bo0 = BO[4]` is 1, or `CR[31-BI]` equals `bo1 = BO[3]`. -/
def State.branchCondOk (s : State) (bo : BitVec 5) (bi : CrBit) : Bool :=
  bo.getLsbD 4 || (s.crBit bi == bo.getLsbD 3)

/-- `BRCOND`'s decision (40_helpers.md R138), from the CTR and CR before the branch. -/
def State.branchTaken (s : State) (bo : BitVec 5) (bi : CrBit) : Bool :=
  branchCtrOk (branchCtr s.ctr bo) bo && s.branchCondOk bo bi

/-- Step 1 of R154: the new CTR is written back at once, taken or not. -/
def State.writeBackCtr (s : State) (bo : BitVec 5) : State := s.setCtr (branchCtr s.ctr bo)

/-- The unconditional shape of R154: no decision, CTR not touched. -/
def branchAlways (absolute lk : Bool) (li : BitVec 24) (s : State) : Result :=
  (s.link lk).commitBranch true (s.dispTarget absolute (dispLI li))

/-- The conditional displacement shape of R154. -/
def branchCond (absolute lk : Bool) (bo : BitVec 5) (bi : CrBit) (bd : BitVec 14) (s : State) : Result :=
  ((s.writeBackCtr bo).link lk).commitBranch (s.branchTaken bo bi) (s.dispTarget absolute (dispBD bd))

/-- The shape that branches to LR: LR is read before the link overwrites it (41_branch.md R154). -/
def branchToLr (lk : Bool) (bo : BitVec 5) (bi : CrBit) (s : State) : Result :=
  ((s.writeBackCtr bo).link lk).commitBranch (s.branchTaken bo bi) (alignTarget s.lr)

/-- The shape that branches to CTR: CTR is read after the decrement (41_branch.md R154). A decrementing `bcctr` has
the meaning R166 gives it (DESIGN CHOICE, log 12). -/
def branchToCtr (lk : Bool) (bo : BitVec 5) (bi : CrBit) (s : State) : Result :=
  ((s.writeBackCtr bo).link lk).commitBranch (s.branchTaken bo bi) (alignTarget (s.writeBackCtr bo).ctr)

/-- `b` (R156). -/
def execB (li : BitVec 24) (s : State) : Result :=
  branchAlways false false li s

/-- `ba` (R157). -/
def execBa (li : BitVec 24) (s : State) : Result :=
  branchAlways true false li s

/-- `bl` (R158). -/
def execBl (li : BitVec 24) (s : State) : Result :=
  branchAlways false true li s

/-- `bla` (R159). -/
def execBla (li : BitVec 24) (s : State) : Result :=
  branchAlways true true li s

/-- `bc` (R160). -/
def execBc (bo : BitVec 5) (bi : CrBit) (bd : BitVec 14) (s : State) : Result :=
  branchCond false false bo bi bd s

/-- `bca` (R161). -/
def execBca (bo : BitVec 5) (bi : CrBit) (bd : BitVec 14) (s : State) : Result :=
  branchCond true false bo bi bd s

/-- `bcl` (R162). -/
def execBcl (bo : BitVec 5) (bi : CrBit) (bd : BitVec 14) (s : State) : Result :=
  branchCond false true bo bi bd s

/-- `bcla` (R163). -/
def execBcla (bo : BitVec 5) (bi : CrBit) (bd : BitVec 14) (s : State) : Result :=
  branchCond true true bo bi bd s

/-- `bclr` (R164). -/
def execBclr (bo : BitVec 5) (bi : CrBit) (s : State) : Result :=
  branchToLr false bo bi s

/-- `bclrl` (R165). -/
def execBclrl (bo : BitVec 5) (bi : CrBit) (s : State) : Result :=
  branchToLr true bo bi s

/-- `bcctr` (R166). -/
def execBcctr (bo : BitVec 5) (bi : CrBit) (s : State) : Result :=
  branchToCtr false bo bi s

/-- `bcctrl` (R167). -/
def execBcctrl (bo : BitVec 5) (bi : CrBit) (s : State) : Result :=
  branchToCtr true bo bi s

end Sys2Proof.Machine
end

