-- ==== Sys2Proof/Machine/CrLogical.lean ====
section
/-! DEFINITION. The condition-register logical instructions and `mcrf` (46_cr_logical.md R315 to R324). -/

namespace Sys2Proof.Machine

/-- The pattern of R315: both source bits are read, then one CR bit is written. -/
def crLogical (op : Bool → Bool → Bool) (crbD crbA crbB : CrBit) (s : State) : Result :=
  (s.writeCrBit crbD (op (s.crBit crbA) (s.crBit crbB))).complete

/-- `crand` (R316). -/
def execCrand (crbD crbA crbB : CrBit) (s : State) : Result :=
  crLogical (fun a b => a && b) crbD crbA crbB s

/-- `crandc` (R317). -/
def execCrandc (crbD crbA crbB : CrBit) (s : State) : Result :=
  crLogical (fun a b => a && !b) crbD crbA crbB s

/-- `creqv` (R318). -/
def execCreqv (crbD crbA crbB : CrBit) (s : State) : Result :=
  crLogical (fun a b => !(a ^^ b)) crbD crbA crbB s

/-- `crnand` (R319). -/
def execCrnand (crbD crbA crbB : CrBit) (s : State) : Result :=
  crLogical (fun a b => !(a && b)) crbD crbA crbB s

/-- `crnor` (R320). -/
def execCrnor (crbD crbA crbB : CrBit) (s : State) : Result :=
  crLogical (fun a b => !(a || b)) crbD crbA crbB s

/-- `cror` (R321). -/
def execCror (crbD crbA crbB : CrBit) (s : State) : Result :=
  crLogical (fun a b => a || b) crbD crbA crbB s

/-- `crorc` (R322). -/
def execCrorc (crbD crbA crbB : CrBit) (s : State) : Result :=
  crLogical (fun a b => a || !b) crbD crbA crbB s

/-- `crxor` (R323). -/
def execCrxor (crbD crbA crbB : CrBit) (s : State) : Result :=
  crLogical (fun a b => a ^^ b) crbD crbA crbB s

/-- `mcrf` (R324). -/
def execMcrf (crfD crfS : CrField) (s : State) : Result :=
  (s.writeCrField crfD (s.crField crfS)).complete

end Sys2Proof.Machine
end

