-- ==== Sys2Proof/Machine/Load.lean ====
section
/-! DEFINITION. The loads (47_load.md R330 to R353). -/

namespace Sys2Proof.Machine

/-- A load without update: the data write, then `pc` (R333). -/
def loadPlain (rD : Reg) (v : Word) (s : State) : Result := (s.writeGpr rD v).complete

/-- A load with update (R331): the data write first, then the base receives the address, so the address wins when
`rA = rD` (log 13). -/
def loadUpdate (rD rA : Reg) (v ea : Word) (s : State) : Result := ((s.writeGpr rD v).writeGpr rA ea).complete

/-- `zext_32(MemRead(ea, 1))`. -/
def State.loadByte (s : State) (ea : Word) : Word := zext32 (s.mem.readByte ea)

/-- `zext_32(MemRead(ea, 2))`. -/
def State.loadHalf (s : State) (ea : Word) : Word := zext32 (s.mem.readHalf ea)

/-- `sext_32(MemRead(ea, 2))`. -/
def State.loadHalfAlgebraic (s : State) (ea : Word) : Word := sext32 (s.mem.readHalf ea)

/-- `MemRead(ea, 4)`. -/
def State.loadWord (s : State) (ea : Word) : Word := s.mem.readWord ea

/-- The loop of `lmw` (R351): `count` words from `ea` into consecutive registers from `r`. The base was read before
the loop. -/
def loadMultiple (ea : Word) (r : Reg) : Nat → State → State
  | 0, s => s
  | count + 1, s => loadMultiple (ea + 4#32) (r + 1#5) count (s.writeGpr r (s.loadWord ea))

/-- The last register of a string of `n` bytes from register `r`: `(r + ceil(n / 4) - 1) mod 32` (R332). -/
def stringFinal (r : Reg) (n : Nat) : Reg := r + BitVec.ofNat 5 ((n + 3) / 4) - 1#5

/-- The skip rule of R332, by register number: the base register, unless it is also the final register. -/
def stringSkips (r rA final : Reg) : Bool := r == rA && r != final

/-- One pass of `STRING_LOAD`'s loop for byte `j` of register `r` (R332): a register is cleared when its first byte
arrives, and its other bytes keep their value. -/
def State.loadStringByte (s : State) (r : Reg) (j : Nat) (b : Byte) : State :=
  s.writeGpr r (setByte (if j = 0 then 0#32 else s.readGpr r) j b)

/-- The loop of `STRING_LOAD` (R332): `n` bytes left, byte `j` of register `r` next, from address `ea`. -/
def loadString (rA final : Reg) : Nat → Reg → Nat → Word → State → State
  | 0, _, _, _, s => s
  | n + 1, r, j, ea, s =>
    let s := if stringSkips r rA final then s else s.loadStringByte r j (s.mem.readByte ea)
    loadString rA final n (if j = 3 then r + 1#5 else r) (if j = 3 then 0 else j + 1) (ea + 1#32) s

/-- `STRING_LOAD(rD, rA, ea, n)` (R332). -/
def stringLoad (rD rA : Reg) (ea : Word) (n : Nat) (s : State) : Result :=
  (loadString rA (stringFinal rD n) n rD 0 ea s).complete

/-- `lbz` (R333). -/
def execLbz (rD rA : Reg) (d : BitVec 16) (s : State) : Result :=
  loadPlain rD (s.loadByte (s.eaD rA d)) s

/-- `lbzx` (R334). -/
def execLbzx (rD rA rB : Reg) (s : State) : Result :=
  loadPlain rD (s.loadByte (s.eaX rA rB)) s

/-- `lbzu` (R335). -/
def execLbzu (rD rA : Reg) (d : BitVec 16) (s : State) : Result :=
  loadUpdate rD rA (s.loadByte (s.eaD rA d)) (s.eaD rA d) s

/-- `lbzux` (R336). -/
def execLbzux (rD rA rB : Reg) (s : State) : Result :=
  loadUpdate rD rA (s.loadByte (s.eaUX rA rB)) (s.eaUX rA rB) s

/-- `lhz` (R337). -/
def execLhz (rD rA : Reg) (d : BitVec 16) (s : State) : Result :=
  loadPlain rD (s.loadHalf (s.eaD rA d)) s

/-- `lhzx` (R338). -/
def execLhzx (rD rA rB : Reg) (s : State) : Result :=
  loadPlain rD (s.loadHalf (s.eaX rA rB)) s

/-- `lhzu` (R339). -/
def execLhzu (rD rA : Reg) (d : BitVec 16) (s : State) : Result :=
  loadUpdate rD rA (s.loadHalf (s.eaD rA d)) (s.eaD rA d) s

/-- `lhzux` (R340). -/
def execLhzux (rD rA rB : Reg) (s : State) : Result :=
  loadUpdate rD rA (s.loadHalf (s.eaUX rA rB)) (s.eaUX rA rB) s

/-- `lha` (R341). -/
def execLha (rD rA : Reg) (d : BitVec 16) (s : State) : Result :=
  loadPlain rD (s.loadHalfAlgebraic (s.eaD rA d)) s

/-- `lhax` (R342). -/
def execLhax (rD rA rB : Reg) (s : State) : Result :=
  loadPlain rD (s.loadHalfAlgebraic (s.eaX rA rB)) s

/-- `lhau` (R343). -/
def execLhau (rD rA : Reg) (d : BitVec 16) (s : State) : Result :=
  loadUpdate rD rA (s.loadHalfAlgebraic (s.eaD rA d)) (s.eaD rA d) s

/-- `lhaux` (R344). -/
def execLhaux (rD rA rB : Reg) (s : State) : Result :=
  loadUpdate rD rA (s.loadHalfAlgebraic (s.eaUX rA rB)) (s.eaUX rA rB) s

/-- `lwz` (R345). -/
def execLwz (rD rA : Reg) (d : BitVec 16) (s : State) : Result :=
  loadPlain rD (s.loadWord (s.eaD rA d)) s

/-- `lwzx` (R346). -/
def execLwzx (rD rA rB : Reg) (s : State) : Result :=
  loadPlain rD (s.loadWord (s.eaX rA rB)) s

/-- `lwzu` (R347). -/
def execLwzu (rD rA : Reg) (d : BitVec 16) (s : State) : Result :=
  loadUpdate rD rA (s.loadWord (s.eaD rA d)) (s.eaD rA d) s

/-- `lwzux` (R348). -/
def execLwzux (rD rA rB : Reg) (s : State) : Result :=
  loadUpdate rD rA (s.loadWord (s.eaUX rA rB)) (s.eaUX rA rB) s

/-- `lhbrx` (R349). -/
def execLhbrx (rD rA rB : Reg) (s : State) : Result :=
  loadPlain rD (zext32 (s.mem.readHalfRev (s.eaX rA rB))) s

/-- `lwbrx` (R350). -/
def execLwbrx (rD rA rB : Reg) (s : State) : Result :=
  loadPlain rD (s.mem.readWordRev (s.eaX rA rB)) s

/-- `lmw` (R351). -/
def execLmw (rD rA : Reg) (d : BitVec 16) (s : State) : Result :=
  (loadMultiple (s.eaD rA d) rD (32 - rD.toNat) s).complete

/-- `lswi` (R352). -/
def execLswi (rD rA : Reg) (n : Nat) (s : State) : Result :=
  stringLoad rD rA (s.readBase rA) n s

/-- `lswx` (R353). -/
def execLswx (rD rA rB : Reg) (s : State) : Result :=
  stringLoad rD rA (s.eaX rA rB) s.tbc s

end Sys2Proof.Machine
end

