-- ==== Sys2Proof/Machine/Logical.lean ====
section
/-! DEFINITION. Logical operations, sign extension and leading zeros (44_logical.md R260 to R288): the first source is
`rS`, the destination `rA`. -/

namespace Sys2Proof.Machine

/-- The family pattern of R260: CR0UPDATE if record, the destination write, `pc`. Also the end of the shifts and
rotates (45_shift_rotate.md R295). -/
def State.finishLogical (s : State) (rc : Bool) (rA : Reg) (result : Word) : Result :=
  ((s.recordCr0 rc result).writeGpr rA result).complete

/-- A register-register Boolean operation on all 32 bits (R260). -/
def logicalReg (op : Word → Word → Word) (rc : Bool) (rA rS rB : Reg) (s : State) : Result :=
  s.finishLogical rc rA (op (s.readGpr rS) (s.readGpr rB))

/-- A Boolean operation with an immediate operand (R260). -/
def logicalImm (op : Word → Word → Word) (rc : Bool) (rA rS : Reg) (imm : Word) (s : State) : Result :=
  s.finishLogical rc rA (op (s.readGpr rS) imm)

/-- `extsb`: the low byte, sign-extended (R283). -/
def extendByte (rc : Bool) (rA rS : Reg) (s : State) : Result :=
  s.finishLogical rc rA (sext32 ((s.readGpr rS).setWidth 8))

/-- `extsh`: the low halfword, sign-extended (R285). -/
def extendHalf (rc : Bool) (rA rS : Reg) (s : State) : Result :=
  s.finishLogical rc rA (sext32 ((s.readGpr rS).setWidth 16))

/-- `cntlzw`: the number of leading zeros, zero-extended (R287). -/
def countLeadingZeros (rc : Bool) (rA rS : Reg) (s : State) : Result :=
  s.finishLogical rc rA (BitVec.ofNat 32 (clz32 (s.readGpr rS)))

/-- `and` (R261). -/
def execAnd (rA rS rB : Reg) (s : State) : Result :=
  logicalReg (fun x y => x &&& y) false rA rS rB s

/-- `and.` (R262). -/
def execAndRc (rA rS rB : Reg) (s : State) : Result :=
  logicalReg (fun x y => x &&& y) true rA rS rB s

/-- `andc` (R263). -/
def execAndc (rA rS rB : Reg) (s : State) : Result :=
  logicalReg (fun x y => x &&& ~~~y) false rA rS rB s

/-- `andc.` (R264). -/
def execAndcRc (rA rS rB : Reg) (s : State) : Result :=
  logicalReg (fun x y => x &&& ~~~y) true rA rS rB s

/-- `eqv` (R265). -/
def execEqv (rA rS rB : Reg) (s : State) : Result :=
  logicalReg (fun x y => ~~~(x ^^^ y)) false rA rS rB s

/-- `eqv.` (R266). -/
def execEqvRc (rA rS rB : Reg) (s : State) : Result :=
  logicalReg (fun x y => ~~~(x ^^^ y)) true rA rS rB s

/-- `nand` (R267). -/
def execNand (rA rS rB : Reg) (s : State) : Result :=
  logicalReg (fun x y => ~~~(x &&& y)) false rA rS rB s

/-- `nand.` (R268). -/
def execNandRc (rA rS rB : Reg) (s : State) : Result :=
  logicalReg (fun x y => ~~~(x &&& y)) true rA rS rB s

/-- `nor` (R269). -/
def execNor (rA rS rB : Reg) (s : State) : Result :=
  logicalReg (fun x y => ~~~(x ||| y)) false rA rS rB s

/-- `nor.` (R270). -/
def execNorRc (rA rS rB : Reg) (s : State) : Result :=
  logicalReg (fun x y => ~~~(x ||| y)) true rA rS rB s

/-- `or` (R271). -/
def execOr (rA rS rB : Reg) (s : State) : Result :=
  logicalReg (fun x y => x ||| y) false rA rS rB s

/-- `or.` (R272). -/
def execOrRc (rA rS rB : Reg) (s : State) : Result :=
  logicalReg (fun x y => x ||| y) true rA rS rB s

/-- `orc` (R273). -/
def execOrc (rA rS rB : Reg) (s : State) : Result :=
  logicalReg (fun x y => x ||| ~~~y) false rA rS rB s

/-- `orc.` (R274). -/
def execOrcRc (rA rS rB : Reg) (s : State) : Result :=
  logicalReg (fun x y => x ||| ~~~y) true rA rS rB s

/-- `xor` (R275). -/
def execXor (rA rS rB : Reg) (s : State) : Result :=
  logicalReg (fun x y => x ^^^ y) false rA rS rB s

/-- `xor.` (R276). -/
def execXorRc (rA rS rB : Reg) (s : State) : Result :=
  logicalReg (fun x y => x ^^^ y) true rA rS rB s

/-- `andi.` (R277). -/
def execAndiRc (rA rS : Reg) (uimm : BitVec 16) (s : State) : Result :=
  logicalImm (fun x y => x &&& y) true rA rS (zext32 uimm) s

/-- `andis.` (R278). -/
def execAndisRc (rA rS : Reg) (uimm : BitVec 16) (s : State) : Result :=
  logicalImm (fun x y => x &&& y) true rA rS (immShifted uimm) s

/-- `ori` (R279). -/
def execOri (rA rS : Reg) (uimm : BitVec 16) (s : State) : Result :=
  logicalImm (fun x y => x ||| y) false rA rS (zext32 uimm) s

/-- `oris` (R280). -/
def execOris (rA rS : Reg) (uimm : BitVec 16) (s : State) : Result :=
  logicalImm (fun x y => x ||| y) false rA rS (immShifted uimm) s

/-- `xori` (R281). -/
def execXori (rA rS : Reg) (uimm : BitVec 16) (s : State) : Result :=
  logicalImm (fun x y => x ^^^ y) false rA rS (zext32 uimm) s

/-- `xoris` (R282). -/
def execXoris (rA rS : Reg) (uimm : BitVec 16) (s : State) : Result :=
  logicalImm (fun x y => x ^^^ y) false rA rS (immShifted uimm) s

/-- `extsb` (R283). -/
def execExtsb (rA rS : Reg) (s : State) : Result :=
  extendByte false rA rS s

/-- `extsb.` (R284). -/
def execExtsbRc (rA rS : Reg) (s : State) : Result :=
  extendByte true rA rS s

/-- `extsh` (R285). -/
def execExtsh (rA rS : Reg) (s : State) : Result :=
  extendHalf false rA rS s

/-- `extsh.` (R286). -/
def execExtshRc (rA rS : Reg) (s : State) : Result :=
  extendHalf true rA rS s

/-- `cntlzw` (R287). -/
def execCntlzw (rA rS : Reg) (s : State) : Result :=
  countLeadingZeros false rA rS s

/-- `cntlzw.` (R288). -/
def execCntlzwRc (rA rS : Reg) (s : State) : Result :=
  countLeadingZeros true rA rS s

end Sys2Proof.Machine
end

