-- ==== Sys2Proof/Machine/Spr.lean ====
section
/-! DEFINITION. The special-purpose registers and `SPR_MAP` (10_state.md R29 to R32). -/

namespace Sys2Proof.Machine

/-- The registers `mfspr` and `mtspr` reach (10_state.md R32). -/
inductive Spr where
  | lr | ctr | usprg0 | sprg4 | sprg5 | sprg6 | sprg7
  deriving DecidableEq, Repr

/-- `SPR_MAP` (10_state.md R32): the implemented SPR numbers, after the 5-bit swap. UNVERIFIED (log 17): the spec
takes the numbers from general knowledge. -/
def sprMap : List (Nat × Spr) :=
  [(8, .lr), (9, .ctr), (256, .usprg0), (260, .sprg4), (261, .sprg5), (262, .sprg6), (263, .sprg7)]

/-- The register `SPR_MAP` names for the number `n`, if any. -/
def sprOf (n : Nat) : Option Spr := sprMap.lookup n

/-- The content of a special-purpose register. -/
def State.readSpr (s : State) : Spr → Word
  | .lr => s.lr
  | .ctr => s.ctr
  | .usprg0 => s.usprg0
  | .sprg4 => s.sprg4
  | .sprg5 => s.sprg5
  | .sprg6 => s.sprg6
  | .sprg7 => s.sprg7

/-- All 32 bits of a special-purpose register replaced (49_move_system.md R387). -/
def State.writeSpr (s : State) (r : Spr) (v : Word) : State :=
  match r with
  | .lr => s.setLr v
  | .ctr => s.setCtr v
  | .usprg0 => { s with usprg0 := v }
  | .sprg4 => { s with sprg4 := v }
  | .sprg5 => { s with sprg5 := v }
  | .sprg6 => { s with sprg6 := v }
  | .sprg7 => { s with sprg7 := v }

end Sys2Proof.Machine
end

