-- ==== Sys2Proof/Machine/MoveSystem.lean ====
section
/-! DEFINITION. Special-register moves and the system call (49_move_system.md R385 to R391). -/

namespace Sys2Proof.Machine

/-- `mfspr` (R386): an SPR number outside `SPR_MAP` is the fatal stop. -/
def execMfspr (rD : Reg) (n : Nat) (s : State) : Result :=
  match sprOf n with
  | none => s.halt .spr
  | some r => (s.writeGpr rD (s.readSpr r)).complete

/-- `mtspr` (R387): an SPR number outside `SPR_MAP` is the fatal stop. -/
def execMtspr (n : Nat) (rS : Reg) (s : State) : Result :=
  match sprOf n with
  | none => s.halt .spr
  | some r => (s.writeSpr r (s.readGpr rS)).complete

/-- `mfcr` (R388): all 32 bits of CR. -/
def execMfcr (rD : Reg) (s : State) : Result :=
  (s.writeGpr rD s.cr).complete

/-- `mtcrf` (R389): the selected CR fields. -/
def execMtcrf (crm : BitVec 8) (rS : Reg) (s : State) : Result :=
  (s.setCr (insertUnder (crmMask crm) (s.readGpr rS) s.cr)).complete

/-- `mcrxr` (R390): the field receives `XER[31:28]`; SO, OV and CA are cleared, nothing else. -/
def execMcrxr (crfD : CrField) (s : State) : Result :=
  ((s.writeCrField crfD ((s.xer >>> 28).setWidth 4)).setXer (s.xer &&& 0x1FFFFFFF#32)).complete

/-- `sc` (R391): only `pc` advances; the output it raises is `syscallEvent` of Outputs.lean (log 10). -/
def execSc (s : State) : Result :=
  s.complete

end Sys2Proof.Machine
end

