-- ==== Sys2Proof/Machine/MulDivCmp.lean ====
section
/-! DEFINITION. Multiply, divide and compare (43_mul_div_cmp.md R230 to R253). -/

namespace Sys2Proof.Machine

/-- The end of a multiply or divide, after its XER update: CR0UPDATE if record, the destination write, `pc` (R230). -/
def State.finishArith (s : State) (rc : Bool) (rD : Reg) (result : Word) : Result :=
  ((s.recordCr0 rc result).writeGpr rD result).complete

/-- The exact signed 64-bit product (R233, R237). -/
def signedProduct (a b : Word) : BitVec 64 := sext64 a * sext64 b

/-- The exact unsigned 64-bit product (R239). -/
def unsignedProduct (a b : Word) : BitVec 64 := zext64 a * zext64 b

/-- The low word `prod[31:0]`. -/
def lowWord (p : BitVec 64) : Word := p.setWidth 32

/-- The high word `prod[63:32]`. -/
def highWord (p : BitVec 64) : Word := (p >>> 32).setWidth 32

/-- `mullw` in its four forms (R233 to R236). -/
def mulLow (oe rc : Bool) (rD rA rB : Reg) (s : State) : Result :=
  let prod := signedProduct (s.readGpr rA) (s.readGpr rB)
  let s := if oe then s.ovMul prod else s
  s.finishArith rc rD (lowWord prod)

/-- The signed quotient, rounded toward zero, of a division that defines one (R242). -/
def quotientSigned (a b : Word) : Word := BitVec.ofInt 32 (a.toInt.tdiv b.toInt)

/-- The unsigned quotient, the floor, of a division that defines one (R246). -/
def quotientUnsigned (a b : Word) : Word := BitVec.ofNat 32 (a.toNat / b.toNat)

/-- `divw` in its four forms (R242 to R245). An undefined division draws its result, a free value (R231, log 5);
everything else it does is as the rule says, CR0 computed from the drawn result. -/
def divideSigned (form : Config.DivideForm) (oe rc : Bool) (rD rA rB : Reg) (s : State) : Result :=
  let a := s.readGpr rA
  let b := s.readGpr rB
  let undefined := divSignedUndefined a b
  let result := if undefined then Config.unspecified32 form s.draws a b else quotientSigned a b
  let s := if oe then s.recordOverflow (ovDivSigned form s.draws a b) else s
  (if undefined then s.draw else s).finishArith rc rD result

/-- `divwu` in its four forms (R246 to R249); a zero divisor draws the result (R231, log 5). -/
def divideUnsigned (form : Config.DivideForm) (oe rc : Bool) (rD rA rB : Reg) (s : State) : Result :=
  let a := s.readGpr rA
  let b := s.readGpr rB
  let undefined := b == 0#32
  let result := if undefined then Config.unspecified32 form s.draws a b else quotientUnsigned a b
  let s := if oe then s.recordOverflow (ovDivUnsigned form s.draws a b) else s
  (if undefined then s.draw else s).finishArith rc rD result

/-- A signed compare of two words into field `n` (R232, R250). -/
def compareSigned (n : CrField) (a b : Word) (s : State) : Result :=
  (s.writeCompare n (decide (a.toInt < b.toInt)) (decide (b.toInt < a.toInt))).complete

/-- An unsigned compare of two words into field `n` (R232, R252). -/
def compareUnsigned (n : CrField) (a b : Word) (s : State) : Result :=
  (s.writeCompare n (decide (a.toNat < b.toNat)) (decide (b.toNat < a.toNat))).complete

/-- `mullw` (R233). -/
def execMullw (rD rA rB : Reg) (s : State) : Result :=
  mulLow false false rD rA rB s

/-- `mullw.` (R234). -/
def execMullwRc (rD rA rB : Reg) (s : State) : Result :=
  mulLow false true rD rA rB s

/-- `mullwo` (R235). -/
def execMullwo (rD rA rB : Reg) (s : State) : Result :=
  mulLow true false rD rA rB s

/-- `mullwo.` (R236). -/
def execMullwoRc (rD rA rB : Reg) (s : State) : Result :=
  mulLow true true rD rA rB s

/-- `mulhw` (R237). -/
def execMulhw (rD rA rB : Reg) (s : State) : Result :=
  s.finishArith false rD (highWord (signedProduct (s.readGpr rA) (s.readGpr rB)))

/-- `mulhw.` (R238). -/
def execMulhwRc (rD rA rB : Reg) (s : State) : Result :=
  s.finishArith true rD (highWord (signedProduct (s.readGpr rA) (s.readGpr rB)))

/-- `mulhwu` (R239). -/
def execMulhwu (rD rA rB : Reg) (s : State) : Result :=
  s.finishArith false rD (highWord (unsignedProduct (s.readGpr rA) (s.readGpr rB)))

/-- `mulhwu.` (R240). -/
def execMulhwuRc (rD rA rB : Reg) (s : State) : Result :=
  s.finishArith true rD (highWord (unsignedProduct (s.readGpr rA) (s.readGpr rB)))

/-- `mulli` (R241). -/
def execMulli (rD rA : Reg) (simm : BitVec 16) (s : State) : Result :=
  s.finishArith false rD (lowWord (signedProduct (s.readGpr rA) (sext32 simm)))

/-- `divw` (R242). -/
def execDivw (rD rA rB : Reg) (s : State) : Result :=
  divideSigned .divw false false rD rA rB s

/-- `divw.` (R243). -/
def execDivwRc (rD rA rB : Reg) (s : State) : Result :=
  divideSigned .divwRc false true rD rA rB s

/-- `divwo` (R244). -/
def execDivwo (rD rA rB : Reg) (s : State) : Result :=
  divideSigned .divwo true false rD rA rB s

/-- `divwo.` (R245). -/
def execDivwoRc (rD rA rB : Reg) (s : State) : Result :=
  divideSigned .divwoRc true true rD rA rB s

/-- `divwu` (R246). -/
def execDivwu (rD rA rB : Reg) (s : State) : Result :=
  divideUnsigned .divwu false false rD rA rB s

/-- `divwu.` (R247). -/
def execDivwuRc (rD rA rB : Reg) (s : State) : Result :=
  divideUnsigned .divwuRc false true rD rA rB s

/-- `divwuo` (R248). -/
def execDivwuo (rD rA rB : Reg) (s : State) : Result :=
  divideUnsigned .divwuo true false rD rA rB s

/-- `divwuo.` (R249). -/
def execDivwuoRc (rD rA rB : Reg) (s : State) : Result :=
  divideUnsigned .divwuoRc true true rD rA rB s

/-- `cmp` (R250); the `L` bit is ignored (30_encoding.md R124). -/
def execCmp (crfD : CrField) (_l : BitVec 1) (rA rB : Reg) (s : State) : Result :=
  compareSigned crfD (s.readGpr rA) (s.readGpr rB) s

/-- `cmpi` (R251); the `L` bit is ignored (30_encoding.md R124). -/
def execCmpi (crfD : CrField) (_l : BitVec 1) (rA : Reg) (simm : BitVec 16) (s : State) : Result :=
  compareSigned crfD (s.readGpr rA) (sext32 simm) s

/-- `cmpl` (R252); the `L` bit is ignored (30_encoding.md R124). -/
def execCmpl (crfD : CrField) (_l : BitVec 1) (rA rB : Reg) (s : State) : Result :=
  compareUnsigned crfD (s.readGpr rA) (s.readGpr rB) s

/-- `cmpli` (R253); the `L` bit is ignored (30_encoding.md R124). -/
def execCmpli (crfD : CrField) (_l : BitVec 1) (rA : Reg) (uimm : BitVec 16) (s : State) : Result :=
  compareUnsigned crfD (s.readGpr rA) (zext32 uimm) s

end Sys2Proof.Machine
end

