-- ==== Sys2Proof/Machine/ShiftRotate.lean ====
section
/-! DEFINITION. Shifts and rotates (45_shift_rotate.md R295 to R309): a rotate combined with a mask. -/

namespace Sys2Proof.Machine

/-- `(32 - n) mod 32` for a 5-bit `n`: the left-rotate amount of a right rotate (40_helpers.md R136). -/
def rightAmount (n : BitVec 5) : BitVec 5 := 0#5 - n

/-- The result of `slw` for the 6-bit amount `n` (R296). -/
def shiftLeftResult (v : Word) (n : BitVec 6) : Word :=
  if n.getLsbD 5 then 0#32 else rotl32 v (n.setWidth 5) &&& mask 0#5 (31#5 - n.setWidth 5)

/-- The result of `srw` for the 6-bit amount `n` (R298). -/
def shiftRightResult (v : Word) (n : BitVec 6) : Word :=
  if n.getLsbD 5 then 0#32 else rotl32 v (rightAmount (n.setWidth 5)) &&& mask (n.setWidth 5) 31#5

/-- The result of `sraw` and `srawi` for the 6-bit amount `n` (R300, R302). -/
def shiftAlgebraicResult (v : Word) (n : BitVec 6) : Word :=
  if n.getLsbD 5 then replicateBit v.msb
  else insertUnder (mask (n.setWidth 5) 31#5) (rotl32 v (rightAmount (n.setWidth 5))) (replicateBit v.msb)

/-- The carry of `sraw` and `srawi` (R300, R302): the sign, and a 1 bit shifted out. -/
def shiftAlgebraicCarry (v : Word) (n : BitVec 6) : Bool :=
  if n.getLsbD 5 then v.msb
  else v.msb && (rotl32 v (rightAmount (n.setWidth 5)) &&& ~~~mask (n.setWidth 5) 31#5) != 0#32

/-- `slw` (R296, R297). -/
def shiftLeft (rc : Bool) (rA rS rB : Reg) (s : State) : Result :=
  s.finishLogical rc rA (shiftLeftResult (s.readGpr rS) (s.shiftAmount rB))

/-- `srw` (R298, R299). -/
def shiftRight (rc : Bool) (rA rS rB : Reg) (s : State) : Result :=
  s.finishLogical rc rA (shiftRightResult (s.readGpr rS) (s.shiftAmount rB))

/-- `sraw` and `srawi` (R300 to R303): CA is always written, before CR0. -/
def shiftAlgebraic (rc : Bool) (rA rS : Reg) (n : BitVec 6) (s : State) : Result :=
  let v := s.readGpr rS
  (s.setCa (shiftAlgebraicCarry v n)).finishLogical rc rA (shiftAlgebraicResult v n)

/-- `rlwinm` and `rlwnm`: rotate, then AND with the mask (R306, R308). -/
def rotateAnd (rc : Bool) (rA rS : Reg) (n mb me : BitVec 5) (s : State) : Result :=
  s.finishLogical rc rA (rotl32 (s.readGpr rS) n &&& mask mb me)

/-- `rlwimi`: rotate, then insert under the mask into the old `rA` (R304). -/
def rotateInsert (rc : Bool) (rA rS : Reg) (n mb me : BitVec 5) (s : State) : Result :=
  s.finishLogical rc rA (insertUnder (mask mb me) (rotl32 (s.readGpr rS) n) (s.readGpr rA))

/-- `slw` (R296). -/
def execSlw (rA rS rB : Reg) (s : State) : Result :=
  shiftLeft false rA rS rB s

/-- `slw.` (R297). -/
def execSlwRc (rA rS rB : Reg) (s : State) : Result :=
  shiftLeft true rA rS rB s

/-- `srw` (R298). -/
def execSrw (rA rS rB : Reg) (s : State) : Result :=
  shiftRight false rA rS rB s

/-- `srw.` (R299). -/
def execSrwRc (rA rS rB : Reg) (s : State) : Result :=
  shiftRight true rA rS rB s

/-- `sraw` (R300). -/
def execSraw (rA rS rB : Reg) (s : State) : Result :=
  shiftAlgebraic false rA rS (s.shiftAmount rB) s

/-- `sraw.` (R301). -/
def execSrawRc (rA rS rB : Reg) (s : State) : Result :=
  shiftAlgebraic true rA rS (s.shiftAmount rB) s

/-- `srawi` (R302). -/
def execSrawi (rA rS : Reg) (sh : BitVec 5) (s : State) : Result :=
  shiftAlgebraic false rA rS (sh.setWidth 6) s

/-- `srawi.` (R303). -/
def execSrawiRc (rA rS : Reg) (sh : BitVec 5) (s : State) : Result :=
  shiftAlgebraic true rA rS (sh.setWidth 6) s

/-- `rlwimi` (R304). -/
def execRlwimi (rA rS : Reg) (sh mb me : BitVec 5) (s : State) : Result :=
  rotateInsert false rA rS sh mb me s

/-- `rlwimi.` (R305). -/
def execRlwimiRc (rA rS : Reg) (sh mb me : BitVec 5) (s : State) : Result :=
  rotateInsert true rA rS sh mb me s

/-- `rlwinm` (R306). -/
def execRlwinm (rA rS : Reg) (sh mb me : BitVec 5) (s : State) : Result :=
  rotateAnd false rA rS sh mb me s

/-- `rlwinm.` (R307). -/
def execRlwinmRc (rA rS : Reg) (sh mb me : BitVec 5) (s : State) : Result :=
  rotateAnd true rA rS sh mb me s

/-- `rlwnm` (R308). -/
def execRlwnm (rA rS rB : Reg) (mb me : BitVec 5) (s : State) : Result :=
  rotateAnd false rA rS (s.rotateAmount rB) mb me s

/-- `rlwnm.` (R309). -/
def execRlwnmRc (rA rS rB : Reg) (mb me : BitVec 5) (s : State) : Result :=
  rotateAnd true rA rS (s.rotateAmount rB) mb me s

end Sys2Proof.Machine
end

