-- ==== Sys2Proof/Machine/Store.lean ====
section
/-! DEFINITION. The stores (48_store.md R360 to R377). -/

namespace Sys2Proof.Machine

/-- A store without update: the memory write, then `pc` (R360). -/
def storePlain (m : Memory) (s : State) : Result := (s.setMem m).complete

/-- A store with update (47_load.md R331): the base receives the address after the memory write. The value stored was
read by the caller, before the update. -/
def storeUpdate (m : Memory) (rA : Reg) (ea : Word) (s : State) : Result :=
  ((s.setMem m).writeGpr rA ea).complete

/-- Memory after `MemWrite(ea, 1, GPR[rS][7:0])`. -/
def State.storeByte (s : State) (rS : Reg) (ea : Word) : Memory := s.mem.writeByte ea (byteOf (s.readGpr rS) 3)

/-- Memory after `MemWrite(ea, 2, GPR[rS][15:0])`. -/
def State.storeHalf (s : State) (rS : Reg) (ea : Word) : Memory := s.mem.writeHalf ea (s.readGpr rS)

/-- Memory after `MemWrite(ea, 4, GPR[rS])`. -/
def State.storeWord (s : State) (rS : Reg) (ea : Word) : Memory := s.mem.writeWord ea (s.readGpr rS)

/-- The loop of `stmw` (R375): `count` consecutive registers from `r` to the words from `ea`. -/
def storeMultiple (s : State) (ea : Word) (r : Reg) : Nat → Memory → Memory
  | 0, m => m
  | count + 1, m => storeMultiple s (ea + 4#32) (r + 1#5) count (m.writeWord ea (s.readGpr r))

/-- The loop of `STRING_STORE` (47_load.md R332): `n` bytes left, byte `j` of register `r` next, to address `ea`. The
bytes of a skipped register are not written (log 14). -/
def storeString (s : State) (rA final : Reg) : Nat → Reg → Nat → Word → Memory → Memory
  | 0, _, _, _, m => m
  | n + 1, r, j, ea, m =>
    let m := if stringSkips r rA final then m else m.writeByte ea (byteOf (s.readGpr r) j)
    storeString s rA final n (if j = 3 then r + 1#5 else r) (if j = 3 then 0 else j + 1) (ea + 1#32) m

/-- `STRING_STORE(rS, rA, ea, n)` (47_load.md R332). -/
def stringStore (rS rA : Reg) (ea : Word) (n : Nat) (s : State) : Result :=
  storePlain (storeString s rA (stringFinal rS n) n rS 0 ea s.mem) s

/-- `stb` (R361). -/
def execStb (rS rA : Reg) (d : BitVec 16) (s : State) : Result :=
  storePlain (s.storeByte rS (s.eaD rA d)) s

/-- `stbx` (R362). -/
def execStbx (rS rA rB : Reg) (s : State) : Result :=
  storePlain (s.storeByte rS (s.eaX rA rB)) s

/-- `stbu` (R363). -/
def execStbu (rS rA : Reg) (d : BitVec 16) (s : State) : Result :=
  storeUpdate (s.storeByte rS (s.eaD rA d)) rA (s.eaD rA d) s

/-- `stbux` (R364). -/
def execStbux (rS rA rB : Reg) (s : State) : Result :=
  storeUpdate (s.storeByte rS (s.eaUX rA rB)) rA (s.eaUX rA rB) s

/-- `sth` (R365). -/
def execSth (rS rA : Reg) (d : BitVec 16) (s : State) : Result :=
  storePlain (s.storeHalf rS (s.eaD rA d)) s

/-- `sthx` (R366). -/
def execSthx (rS rA rB : Reg) (s : State) : Result :=
  storePlain (s.storeHalf rS (s.eaX rA rB)) s

/-- `sthu` (R367). -/
def execSthu (rS rA : Reg) (d : BitVec 16) (s : State) : Result :=
  storeUpdate (s.storeHalf rS (s.eaD rA d)) rA (s.eaD rA d) s

/-- `sthux` (R368). -/
def execSthux (rS rA rB : Reg) (s : State) : Result :=
  storeUpdate (s.storeHalf rS (s.eaUX rA rB)) rA (s.eaUX rA rB) s

/-- `stw` (R369). -/
def execStw (rS rA : Reg) (d : BitVec 16) (s : State) : Result :=
  storePlain (s.storeWord rS (s.eaD rA d)) s

/-- `stwx` (R370). -/
def execStwx (rS rA rB : Reg) (s : State) : Result :=
  storePlain (s.storeWord rS (s.eaX rA rB)) s

/-- `stwu` (R371). -/
def execStwu (rS rA : Reg) (d : BitVec 16) (s : State) : Result :=
  storeUpdate (s.storeWord rS (s.eaD rA d)) rA (s.eaD rA d) s

/-- `stwux` (R372). -/
def execStwux (rS rA rB : Reg) (s : State) : Result :=
  storeUpdate (s.storeWord rS (s.eaUX rA rB)) rA (s.eaUX rA rB) s

/-- `sthbrx` (R373). -/
def execSthbrx (rS rA rB : Reg) (s : State) : Result :=
  storePlain (s.mem.writeHalfRev (s.eaX rA rB) (s.readGpr rS)) s

/-- `stwbrx` (R374). -/
def execStwbrx (rS rA rB : Reg) (s : State) : Result :=
  storePlain (s.mem.writeWordRev (s.eaX rA rB) (s.readGpr rS)) s

/-- `stmw` (R375). -/
def execStmw (rS rA : Reg) (d : BitVec 16) (s : State) : Result :=
  storePlain (storeMultiple s (s.eaD rA d) rS (32 - rS.toNat) s.mem) s

/-- `stswi` (R376). -/
def execStswi (rS rA : Reg) (n : Nat) (s : State) : Result :=
  stringStore rS rA (s.readBase rA) n s

/-- `stswx` (R377). -/
def execStswx (rS rA rB : Reg) (s : State) : Result :=
  stringStore rS rA (s.eaX rA rB) s.tbc s

end Sys2Proof.Machine
end

