-- ==== Sys2Proof/Machine/Dispatch.lean ====
section
/-! DEFINITION. The dispatch: one arm per constructor of `Instr`, each one direct call of the instruction's meaning. -/

namespace Sys2Proof.Machine

def exec (i : Instr) (s : State) : Host.Outcome State Fault Refusal :=
  match i with
  -- 41_branch.md
  | .b li => Sys2Proof.Machine.execB li s
  | .ba li => Sys2Proof.Machine.execBa li s
  | .bl li => Sys2Proof.Machine.execBl li s
  | .bla li => Sys2Proof.Machine.execBla li s
  | .bc bo bi bd => Sys2Proof.Machine.execBc bo bi bd s
  | .bca bo bi bd => Sys2Proof.Machine.execBca bo bi bd s
  | .bcl bo bi bd => Sys2Proof.Machine.execBcl bo bi bd s
  | .bcla bo bi bd => Sys2Proof.Machine.execBcla bo bi bd s
  | .bclr bo bi => Sys2Proof.Machine.execBclr bo bi s
  | .bclrl bo bi => Sys2Proof.Machine.execBclrl bo bi s
  | .bcctr bo bi => Sys2Proof.Machine.execBcctr bo bi s
  | .bcctrl bo bi => Sys2Proof.Machine.execBcctrl bo bi s
  -- 42_add_sub.md
  | .add rD rA rB => Sys2Proof.Machine.execAdd rD rA rB s
  | .addRc rD rA rB => Sys2Proof.Machine.execAddRc rD rA rB s
  | .addo rD rA rB => Sys2Proof.Machine.execAddo rD rA rB s
  | .addoRc rD rA rB => Sys2Proof.Machine.execAddoRc rD rA rB s
  | .addc rD rA rB => Sys2Proof.Machine.execAddc rD rA rB s
  | .addcRc rD rA rB => Sys2Proof.Machine.execAddcRc rD rA rB s
  | .addco rD rA rB => Sys2Proof.Machine.execAddco rD rA rB s
  | .addcoRc rD rA rB => Sys2Proof.Machine.execAddcoRc rD rA rB s
  | .adde rD rA rB => Sys2Proof.Machine.execAdde rD rA rB s
  | .addeRc rD rA rB => Sys2Proof.Machine.execAddeRc rD rA rB s
  | .addeo rD rA rB => Sys2Proof.Machine.execAddeo rD rA rB s
  | .addeoRc rD rA rB => Sys2Proof.Machine.execAddeoRc rD rA rB s
  | .addme rD rA => Sys2Proof.Machine.execAddme rD rA s
  | .addmeRc rD rA => Sys2Proof.Machine.execAddmeRc rD rA s
  | .addmeo rD rA => Sys2Proof.Machine.execAddmeo rD rA s
  | .addmeoRc rD rA => Sys2Proof.Machine.execAddmeoRc rD rA s
  | .addze rD rA => Sys2Proof.Machine.execAddze rD rA s
  | .addzeRc rD rA => Sys2Proof.Machine.execAddzeRc rD rA s
  | .addzeo rD rA => Sys2Proof.Machine.execAddzeo rD rA s
  | .addzeoRc rD rA => Sys2Proof.Machine.execAddzeoRc rD rA s
  | .subf rD rA rB => Sys2Proof.Machine.execSubf rD rA rB s
  | .subfRc rD rA rB => Sys2Proof.Machine.execSubfRc rD rA rB s
  | .subfo rD rA rB => Sys2Proof.Machine.execSubfo rD rA rB s
  | .subfoRc rD rA rB => Sys2Proof.Machine.execSubfoRc rD rA rB s
  | .subfc rD rA rB => Sys2Proof.Machine.execSubfc rD rA rB s
  | .subfcRc rD rA rB => Sys2Proof.Machine.execSubfcRc rD rA rB s
  | .subfco rD rA rB => Sys2Proof.Machine.execSubfco rD rA rB s
  | .subfcoRc rD rA rB => Sys2Proof.Machine.execSubfcoRc rD rA rB s
  | .subfe rD rA rB => Sys2Proof.Machine.execSubfe rD rA rB s
  | .subfeRc rD rA rB => Sys2Proof.Machine.execSubfeRc rD rA rB s
  | .subfeo rD rA rB => Sys2Proof.Machine.execSubfeo rD rA rB s
  | .subfeoRc rD rA rB => Sys2Proof.Machine.execSubfeoRc rD rA rB s
  | .subfme rD rA => Sys2Proof.Machine.execSubfme rD rA s
  | .subfmeRc rD rA => Sys2Proof.Machine.execSubfmeRc rD rA s
  | .subfmeo rD rA => Sys2Proof.Machine.execSubfmeo rD rA s
  | .subfmeoRc rD rA => Sys2Proof.Machine.execSubfmeoRc rD rA s
  | .subfze rD rA => Sys2Proof.Machine.execSubfze rD rA s
  | .subfzeRc rD rA => Sys2Proof.Machine.execSubfzeRc rD rA s
  | .subfzeo rD rA => Sys2Proof.Machine.execSubfzeo rD rA s
  | .subfzeoRc rD rA => Sys2Proof.Machine.execSubfzeoRc rD rA s
  | .neg rD rA => Sys2Proof.Machine.execNeg rD rA s
  | .negRc rD rA => Sys2Proof.Machine.execNegRc rD rA s
  | .nego rD rA => Sys2Proof.Machine.execNego rD rA s
  | .negoRc rD rA => Sys2Proof.Machine.execNegoRc rD rA s
  | .addi rD rA simm => Sys2Proof.Machine.execAddi rD rA simm s
  | .addis rD rA simm => Sys2Proof.Machine.execAddis rD rA simm s
  | .addic rD rA simm => Sys2Proof.Machine.execAddic rD rA simm s
  | .addicRc rD rA simm => Sys2Proof.Machine.execAddicRc rD rA simm s
  | .subfic rD rA simm => Sys2Proof.Machine.execSubfic rD rA simm s
  -- 43_mul_div_cmp.md
  | .mullw rD rA rB => Sys2Proof.Machine.execMullw rD rA rB s
  | .mullwRc rD rA rB => Sys2Proof.Machine.execMullwRc rD rA rB s
  | .mullwo rD rA rB => Sys2Proof.Machine.execMullwo rD rA rB s
  | .mullwoRc rD rA rB => Sys2Proof.Machine.execMullwoRc rD rA rB s
  | .mulhw rD rA rB => Sys2Proof.Machine.execMulhw rD rA rB s
  | .mulhwRc rD rA rB => Sys2Proof.Machine.execMulhwRc rD rA rB s
  | .mulhwu rD rA rB => Sys2Proof.Machine.execMulhwu rD rA rB s
  | .mulhwuRc rD rA rB => Sys2Proof.Machine.execMulhwuRc rD rA rB s
  | .mulli rD rA simm => Sys2Proof.Machine.execMulli rD rA simm s
  | .divw rD rA rB => Sys2Proof.Machine.execDivw rD rA rB s
  | .divwRc rD rA rB => Sys2Proof.Machine.execDivwRc rD rA rB s
  | .divwo rD rA rB => Sys2Proof.Machine.execDivwo rD rA rB s
  | .divwoRc rD rA rB => Sys2Proof.Machine.execDivwoRc rD rA rB s
  | .divwu rD rA rB => Sys2Proof.Machine.execDivwu rD rA rB s
  | .divwuRc rD rA rB => Sys2Proof.Machine.execDivwuRc rD rA rB s
  | .divwuo rD rA rB => Sys2Proof.Machine.execDivwuo rD rA rB s
  | .divwuoRc rD rA rB => Sys2Proof.Machine.execDivwuoRc rD rA rB s
  | .cmp crfD l rA rB => Sys2Proof.Machine.execCmp crfD l rA rB s
  | .cmpi crfD l rA simm => Sys2Proof.Machine.execCmpi crfD l rA simm s
  | .cmpl crfD l rA rB => Sys2Proof.Machine.execCmpl crfD l rA rB s
  | .cmpli crfD l rA uimm => Sys2Proof.Machine.execCmpli crfD l rA uimm s
  -- 44_logical.md
  | .and rA rS rB => Sys2Proof.Machine.execAnd rA rS rB s
  | .andRc rA rS rB => Sys2Proof.Machine.execAndRc rA rS rB s
  | .andc rA rS rB => Sys2Proof.Machine.execAndc rA rS rB s
  | .andcRc rA rS rB => Sys2Proof.Machine.execAndcRc rA rS rB s
  | .eqv rA rS rB => Sys2Proof.Machine.execEqv rA rS rB s
  | .eqvRc rA rS rB => Sys2Proof.Machine.execEqvRc rA rS rB s
  | .nand rA rS rB => Sys2Proof.Machine.execNand rA rS rB s
  | .nandRc rA rS rB => Sys2Proof.Machine.execNandRc rA rS rB s
  | .nor rA rS rB => Sys2Proof.Machine.execNor rA rS rB s
  | .norRc rA rS rB => Sys2Proof.Machine.execNorRc rA rS rB s
  | .or rA rS rB => Sys2Proof.Machine.execOr rA rS rB s
  | .orRc rA rS rB => Sys2Proof.Machine.execOrRc rA rS rB s
  | .orc rA rS rB => Sys2Proof.Machine.execOrc rA rS rB s
  | .orcRc rA rS rB => Sys2Proof.Machine.execOrcRc rA rS rB s
  | .xor rA rS rB => Sys2Proof.Machine.execXor rA rS rB s
  | .xorRc rA rS rB => Sys2Proof.Machine.execXorRc rA rS rB s
  | .andiRc rA rS uimm => Sys2Proof.Machine.execAndiRc rA rS uimm s
  | .andisRc rA rS uimm => Sys2Proof.Machine.execAndisRc rA rS uimm s
  | .ori rA rS uimm => Sys2Proof.Machine.execOri rA rS uimm s
  | .oris rA rS uimm => Sys2Proof.Machine.execOris rA rS uimm s
  | .xori rA rS uimm => Sys2Proof.Machine.execXori rA rS uimm s
  | .xoris rA rS uimm => Sys2Proof.Machine.execXoris rA rS uimm s
  | .extsb rA rS => Sys2Proof.Machine.execExtsb rA rS s
  | .extsbRc rA rS => Sys2Proof.Machine.execExtsbRc rA rS s
  | .extsh rA rS => Sys2Proof.Machine.execExtsh rA rS s
  | .extshRc rA rS => Sys2Proof.Machine.execExtshRc rA rS s
  | .cntlzw rA rS => Sys2Proof.Machine.execCntlzw rA rS s
  | .cntlzwRc rA rS => Sys2Proof.Machine.execCntlzwRc rA rS s
  -- 45_shift_rotate.md
  | .slw rA rS rB => Sys2Proof.Machine.execSlw rA rS rB s
  | .slwRc rA rS rB => Sys2Proof.Machine.execSlwRc rA rS rB s
  | .srw rA rS rB => Sys2Proof.Machine.execSrw rA rS rB s
  | .srwRc rA rS rB => Sys2Proof.Machine.execSrwRc rA rS rB s
  | .sraw rA rS rB => Sys2Proof.Machine.execSraw rA rS rB s
  | .srawRc rA rS rB => Sys2Proof.Machine.execSrawRc rA rS rB s
  | .srawi rA rS sh => Sys2Proof.Machine.execSrawi rA rS sh s
  | .srawiRc rA rS sh => Sys2Proof.Machine.execSrawiRc rA rS sh s
  | .rlwimi rA rS sh mb me => Sys2Proof.Machine.execRlwimi rA rS sh mb me s
  | .rlwimiRc rA rS sh mb me => Sys2Proof.Machine.execRlwimiRc rA rS sh mb me s
  | .rlwinm rA rS sh mb me => Sys2Proof.Machine.execRlwinm rA rS sh mb me s
  | .rlwinmRc rA rS sh mb me => Sys2Proof.Machine.execRlwinmRc rA rS sh mb me s
  | .rlwnm rA rS rB mb me => Sys2Proof.Machine.execRlwnm rA rS rB mb me s
  | .rlwnmRc rA rS rB mb me => Sys2Proof.Machine.execRlwnmRc rA rS rB mb me s
  -- 46_cr_logical.md
  | .crand crbD crbA crbB => Sys2Proof.Machine.execCrand crbD crbA crbB s
  | .crandc crbD crbA crbB => Sys2Proof.Machine.execCrandc crbD crbA crbB s
  | .creqv crbD crbA crbB => Sys2Proof.Machine.execCreqv crbD crbA crbB s
  | .crnand crbD crbA crbB => Sys2Proof.Machine.execCrnand crbD crbA crbB s
  | .crnor crbD crbA crbB => Sys2Proof.Machine.execCrnor crbD crbA crbB s
  | .cror crbD crbA crbB => Sys2Proof.Machine.execCror crbD crbA crbB s
  | .crorc crbD crbA crbB => Sys2Proof.Machine.execCrorc crbD crbA crbB s
  | .crxor crbD crbA crbB => Sys2Proof.Machine.execCrxor crbD crbA crbB s
  | .mcrf crfD crfS => Sys2Proof.Machine.execMcrf crfD crfS s
  -- 47_load.md
  | .lbz rD rA d => Sys2Proof.Machine.execLbz rD rA d s
  | .lbzx rD rA rB => Sys2Proof.Machine.execLbzx rD rA rB s
  | .lbzu rD rA d => Sys2Proof.Machine.execLbzu rD rA d s
  | .lbzux rD rA rB => Sys2Proof.Machine.execLbzux rD rA rB s
  | .lhz rD rA d => Sys2Proof.Machine.execLhz rD rA d s
  | .lhzx rD rA rB => Sys2Proof.Machine.execLhzx rD rA rB s
  | .lhzu rD rA d => Sys2Proof.Machine.execLhzu rD rA d s
  | .lhzux rD rA rB => Sys2Proof.Machine.execLhzux rD rA rB s
  | .lha rD rA d => Sys2Proof.Machine.execLha rD rA d s
  | .lhax rD rA rB => Sys2Proof.Machine.execLhax rD rA rB s
  | .lhau rD rA d => Sys2Proof.Machine.execLhau rD rA d s
  | .lhaux rD rA rB => Sys2Proof.Machine.execLhaux rD rA rB s
  | .lwz rD rA d => Sys2Proof.Machine.execLwz rD rA d s
  | .lwzx rD rA rB => Sys2Proof.Machine.execLwzx rD rA rB s
  | .lwzu rD rA d => Sys2Proof.Machine.execLwzu rD rA d s
  | .lwzux rD rA rB => Sys2Proof.Machine.execLwzux rD rA rB s
  | .lhbrx rD rA rB => Sys2Proof.Machine.execLhbrx rD rA rB s
  | .lwbrx rD rA rB => Sys2Proof.Machine.execLwbrx rD rA rB s
  | .lmw rD rA d => Sys2Proof.Machine.execLmw rD rA d s
  | .lswi rD rA n => Sys2Proof.Machine.execLswi rD rA n s
  | .lswx rD rA rB => Sys2Proof.Machine.execLswx rD rA rB s
  -- 48_store.md
  | .stb rS rA d => Sys2Proof.Machine.execStb rS rA d s
  | .stbx rS rA rB => Sys2Proof.Machine.execStbx rS rA rB s
  | .stbu rS rA d => Sys2Proof.Machine.execStbu rS rA d s
  | .stbux rS rA rB => Sys2Proof.Machine.execStbux rS rA rB s
  | .sth rS rA d => Sys2Proof.Machine.execSth rS rA d s
  | .sthx rS rA rB => Sys2Proof.Machine.execSthx rS rA rB s
  | .sthu rS rA d => Sys2Proof.Machine.execSthu rS rA d s
  | .sthux rS rA rB => Sys2Proof.Machine.execSthux rS rA rB s
  | .stw rS rA d => Sys2Proof.Machine.execStw rS rA d s
  | .stwx rS rA rB => Sys2Proof.Machine.execStwx rS rA rB s
  | .stwu rS rA d => Sys2Proof.Machine.execStwu rS rA d s
  | .stwux rS rA rB => Sys2Proof.Machine.execStwux rS rA rB s
  | .sthbrx rS rA rB => Sys2Proof.Machine.execSthbrx rS rA rB s
  | .stwbrx rS rA rB => Sys2Proof.Machine.execStwbrx rS rA rB s
  | .stmw rS rA d => Sys2Proof.Machine.execStmw rS rA d s
  | .stswi rS rA n => Sys2Proof.Machine.execStswi rS rA n s
  | .stswx rS rA rB => Sys2Proof.Machine.execStswx rS rA rB s
  -- 49_move_system.md
  | .mfspr rD n => Sys2Proof.Machine.execMfspr rD n s
  | .mtspr n rS => Sys2Proof.Machine.execMtspr n rS s
  | .mfcr rD => Sys2Proof.Machine.execMfcr rD s
  | .mtcrf crm rS => Sys2Proof.Machine.execMtcrf crm rS s
  | .mcrxr crfD => Sys2Proof.Machine.execMcrxr crfD s
  | .sc => Sys2Proof.Machine.execSc s

end Sys2Proof.Machine
end

