-- ==== Sys2Proof/Machine/Cycle.lean ====
section
/-! DEFINITION. One step of the core (00_scope.md R12): the halted core, the alignment of `pc`, fetch, decode,
execute. -/

namespace Sys2Proof.Machine

/-- `pc` is a multiple of 4 (10_state.md R23). -/
def State.pcAligned (s : State) : Bool := s.pc.toNat % 4 == 0

/-- The fetched word `MemRead(pc, 4)` (20_memory.md R67). -/
def State.fetch (s : State) : Word := s.mem.readWord s.pc

/-- The word a step stores for `withFetchWord`: `w` at the state's `pc`. -/
def State.placeWord (s : State) (w : Word) : State := s.setMem (s.mem.writeWord s.pc w)

/-- A halted core executes nothing (60_exceptions.md R403); a misaligned `pc` is refused (10_state.md R23, log 7); a
word that matches no instruction is the fatal stop (30_encoding.md R120); any other word is executed. -/
def State.cycle (s : State) : Result :=
  match s.fatal with
  | some _ => .next s
  | none =>
    if s.pcAligned then
      match decodeWord s.fetch with
      | .ok i => exec i s
      | .error _ => s.halt .undecoded
    else .refused .misalignedPc

/-- The four bytes at `pc` are implemented memory. -/
def State.fetchImplemented (s : State) : Bool :=
  s.mem.implements s.pc && s.mem.implements (s.pc + 1) && s.mem.implements (s.pc + 2) && s.mem.implements (s.pc + 3)

/-- The state made ready to fetch (log 11): the latch clear, `pc` a multiple of 4, the bytes at `pc` implemented. What
is so already is not changed. -/
def State.readyToFetch (s : State) : State :=
  let s := { s with fatal := none, pc := alignTarget s.pc }
  if s.fetchImplemented then s
  else s.setMem { s.mem with base := 0, size := 4294967296 }

end Sys2Proof.Machine
end

