-- ==== Sys2Proof/Machine/Step.lean ====
section
/-! DEFINITION. The step of the machine, and the placing of an instruction where the next step fetches it. -/

namespace Sys2Proof.Machine

/-- One step (00_scope.md R12). -/
def step (s : State) : Host.Outcome State Fault Refusal := s.cycle

/-- The state with the table's instruction bits `w` stored at `pc`, so that the next step fetches and runs exactly
that instruction (log 11). -/
def State.withFetchWord (s : State) (nbits w : Nat) : State := s.readyToFetch.placeWord (tableWord nbits w)

end Sys2Proof.Machine
end

