-- ==== Sys2Proof/Machine/Debug.lean ====
section
/-! DEFINITION. The debug port (60_exceptions.md R412; 10_state.md R38, R39; 20_memory.md R79). It acts between
instructions only (R413), so its operations are functions on the state and no part of the step (log 16). -/

namespace Sys2Proof.Machine

/-- `nRegs()` (10_state.md R38): the fixed total register count, the 104 slots of the index space (00_scope.md R5). Only
the slots of R39 are mapped. -/
def nRegs : Nat := 104

/-- `reg_read(index)` (10_state.md R39): an unmapped index reads 0. -/
def State.regRead (s : State) (index : Nat) : Word :=
  if index < 32 then s.readGpr (BitVec.ofNat 5 index)
  else if index = 96 then s.pc
  else if index = 98 then s.cr
  else if index = 99 then s.lr
  else if index = 100 then s.ctr
  else if index = 101 then s.xer
  else 0#32

/-- `reg_write(index, v)` (10_state.md R39): a write to an unmapped index is ignored. A `pc` that is not a multiple of
4 is stored, and refused by the next step (60_exceptions.md R414, log 7). -/
def State.regWrite (s : State) (index : Nat) (v : Word) : State :=
  if index < 32 then s.writeGpr (BitVec.ofNat 5 index) v
  else if index = 96 then s.setPc v
  else if index = 98 then s.setCr v
  else if index = 99 then s.setLr v
  else if index = 100 then s.setCtr v
  else if index = 101 then s.setXer v
  else s

/-- `mem_read(address)` (20_memory.md R79). -/
def State.memRead (s : State) (a : Word) : Byte := s.mem.readByte a

/-- `mem_write(address, byte)` (20_memory.md R79). -/
def State.memWrite (s : State) (a : Word) (b : Byte) : State := s.setMem (s.mem.writeByte a b)

/-- The host adapter's return from a system call, `reg_write(96, reg_read(99))` (60_exceptions.md R411). -/
def State.syscallReturn (s : State) : State := s.regWrite 96 (s.regRead 99)

end Sys2Proof.Machine
end

