-- ==== Sys2Proof/Machine/Outputs.lean ====
section
/-! DEFINITION. What the core shows its host (60_exceptions.md R402, R410). -/

namespace Sys2Proof.Machine

/-- The output `FATAL` (60_exceptions.md R402): the latch is visible to the host. -/
def State.fatalOutput (s : State) : Option FatalCause := s.fatal

/-- `SYSCALL_EVENT` (60_exceptions.md R410): the step from this state executes `sc`. It is momentary, so it is no state
(10_state.md R36; log 10). -/
def State.syscallEvent (s : State) : Bool :=
  match s.fatal, decodeWord s.fetch with
  | none, .ok .sc => s.pcAligned
  | _, _ => false

end Sys2Proof.Machine
end

