-- ==== Sys2Proof/Safety.lean ====
section
/-! DEFINITION. The words the claims are written in: a run that is no fatal stop, the invariant, and what an
instruction leaves unchanged. -/

namespace Sys2Proof.Machine

/-- The success condition of 60_exceptions.md R402: `FATAL` is clear. -/
def State.running (s : State) : Bool := s.fatal.isNone

/-- The invariant a step keeps: `pc` is a multiple of 4 (10_state.md R23) and the memory is in canonical form. -/
def State.Inv (s : State) : Prop := s.pcAligned = true ∧ s.mem.wf = true

/-- `exec` answers a next state of which `P` holds. -/
def Completes (i : Instr) (s : State) (P : State → Prop) : Prop := ∃ t, exec i s = .next t ∧ P t

/-- Every general register outside `written` is as before. -/
def GprsKept (s t : State) (written : Reg → Prop) : Prop := ∀ r, ¬ written r → t.readGpr r = s.readGpr r

/-- No general register is written. -/
def NoGpr : Reg → Prop := fun _ => False

/-- Every byte whose address is not in `stored` reads as before, and the implemented range is as before. -/
def MemKept (s t : State) (stored : Word → Prop) : Prop :=
  t.mem.base = s.mem.base ∧ t.mem.size = s.mem.size ∧
    ∀ a, ¬ stored a → t.mem.readByte a = s.mem.readByte a

/-- The whole memory reads as before. -/
def MemSame (s t : State) : Prop := MemKept s t (fun _ => False)

/-- The bytes of an access of `n` bytes at `ea`: `ea`, `ea + 1`, …, each modulo 2^32 (20_memory.md R64). -/
def InAccess (ea : Word) (n : Nat) (a : Word) : Prop := ∃ k, k < n ∧ a = ea + BitVec.ofNat 32 k

/-- LR, CTR, the software SPRs and the fatal latch are as before. -/
structure SprsKept (s t : State) : Prop where
  lr : t.lr = s.lr
  ctr : t.ctr = s.ctr
  usprg0 : t.usprg0 = s.usprg0
  sprg4 : t.sprg4 = s.sprg4
  sprg5 : t.sprg5 = s.sprg5
  sprg6 : t.sprg6 = s.sprg6
  sprg7 : t.sprg7 = s.sprg7
  fatal : t.fatal = s.fatal

/-- `pc` has moved to the next instruction (10_state.md R23). -/
def Advances (s t : State) : Prop := t.pc = s.pc + 4#32

/-- The XER after an instruction that leaves SO, OV and CA as given and changes no other bit. -/
def XerBecomes (s t : State) (so ov ca : Bool) : Prop :=
  t.xer.getLsbD 31 = so ∧ t.xer.getLsbD 30 = ov ∧ t.xer.getLsbD 29 = ca ∧
    ∀ k, k < 29 → t.xer.getLsbD k = s.xer.getLsbD k

/-- The CR bits whose LSB-0 number is not in `written` are as before. -/
def CrKept (s t : State) (written : Nat → Prop) : Prop :=
  ∀ k, k < 32 → ¬ written k → t.cr.getLsbD k = s.cr.getLsbD k

/-- What a record form does to CR (40_helpers.md R130): LT, GT, EQ of the result as a signed number, SO from the XER
the instruction leaves, no other bit. A form without the record bit leaves CR. -/
def Cr0Recorded (s t : State) (rc : Bool) (result : Word) : Prop :=
  if rc then
    t.cr.getLsbD 31 = decide (result.toInt < 0) ∧ t.cr.getLsbD 30 = decide (0 < result.toInt) ∧
      t.cr.getLsbD 29 = decide (result.toInt = 0) ∧ t.cr.getLsbD 28 = t.xer.getLsbD 31 ∧
      CrKept s t (fun k => 28 ≤ k)
  else t.cr = s.cr

/-- A completed instruction that writes one general register, and CR0 if `rc` is set: the register's new value, SO,
OV and CA as given, and everything else as before. -/
structure RegEffect (s t : State) (dest : Reg) (rc : Bool) (value : Word) (so ov ca : Bool) : Prop where
  result : t.readGpr dest = value
  gprs : GprsKept s t (· = dest)
  xer : XerBecomes s t so ov ca
  cr : Cr0Recorded s t rc value
  pc : Advances s t
  sprs : SprsKept s t
  mem : MemSame s t

/-- The effect of an arithmetic instruction whose exact result is the integer `wide` (42_add_sub.md R170,
40_helpers.md R131, R133): the register receives `wide` modulo 2^32; if `oe`, OV says whether `wide` is outside
-2^31 to 2^31 - 1 and SO is set with it, never cleared; CA receives `ca`. -/
def ArithEffect (i : Instr) (s : State) (dest : Reg) (wide : Int) (ca oe rc : Bool) : Prop :=
  let ov := decide (wide < -2147483648 ∨ 2147483647 < wide)
  Completes i s fun t =>
    RegEffect s t dest rc (BitVec.ofInt 32 wide) (s.so || (oe && ov)) (if oe then ov else s.ov) ca

/-- The effect of an instruction that writes `value` to one general register and leaves XER. -/
def WordEffect (i : Instr) (s : State) (dest : Reg) (value : Word) (rc : Bool) : Prop :=
  Completes i s fun t => RegEffect s t dest rc value s.so s.ov s.ca

/-- The effect of an instruction that writes only CR bits whose LSB-0 numbers are in `written`, and `pc`. -/
structure CrEffect (s t : State) (written : Nat → Prop) : Prop where
  cr : CrKept s t written
  gprs : GprsKept s t NoGpr
  pc : Advances s t
  sprs : SprsKept s t
  mem : MemSame s t

/-- The effect of a store that changes no byte outside `stored` and no register outside `updated`. -/
structure StoreFrame (s t : State) (updated : Reg → Prop) (stored : Word → Prop) : Prop where
  gprs : GprsKept s t updated
  cr : t.cr = s.cr
  xer : t.xer = s.xer
  pc : Advances s t
  sprs : SprsKept s t
  mem : MemKept s t stored

/-- The effect of a load: no register outside `written`, no CR or XER bit and no byte of memory changes. -/
structure LoadFrame (s t : State) (written : Reg → Prop) : Prop where
  gprs : GprsKept s t written
  cr : t.cr = s.cr
  xer : t.xer = s.xer
  pc : Advances s t
  sprs : SprsKept s t
  mem : MemSame s t

/-- The effect of a branch: no register but `pc`, LR and CTR changes, and no byte of memory. -/
structure BranchFrame (s t : State) : Prop where
  gprs : GprsKept s t NoGpr
  cr : t.cr = s.cr
  xer : t.xer = s.xer
  usprg0 : t.usprg0 = s.usprg0
  sprg4 : t.sprg4 = s.sprg4
  sprg5 : t.sprg5 = s.sprg5
  sprg6 : t.sprg6 = s.sprg6
  sprg7 : t.sprg7 = s.sprg7
  fatal : t.fatal = s.fatal
  mem : MemSame s t

/-- The instruction is one of the 17 stores (48_store.md). -/
def isStore : Instr → Bool
  | .b .. => false
  | .ba .. => false
  | .bl .. => false
  | .bla .. => false
  | .bc .. => false
  | .bca .. => false
  | .bcl .. => false
  | .bcla .. => false
  | .bclr .. => false
  | .bclrl .. => false
  | .bcctr .. => false
  | .bcctrl .. => false
  | .add .. => false
  | .addRc .. => false
  | .addo .. => false
  | .addoRc .. => false
  | .addc .. => false
  | .addcRc .. => false
  | .addco .. => false
  | .addcoRc .. => false
  | .adde .. => false
  | .addeRc .. => false
  | .addeo .. => false
  | .addeoRc .. => false
  | .addme .. => false
  | .addmeRc .. => false
  | .addmeo .. => false
  | .addmeoRc .. => false
  | .addze .. => false
  | .addzeRc .. => false
  | .addzeo .. => false
  | .addzeoRc .. => false
  | .subf .. => false
  | .subfRc .. => false
  | .subfo .. => false
  | .subfoRc .. => false
  | .subfc .. => false
  | .subfcRc .. => false
  | .subfco .. => false
  | .subfcoRc .. => false
  | .subfe .. => false
  | .subfeRc .. => false
  | .subfeo .. => false
  | .subfeoRc .. => false
  | .subfme .. => false
  | .subfmeRc .. => false
  | .subfmeo .. => false
  | .subfmeoRc .. => false
  | .subfze .. => false
  | .subfzeRc .. => false
  | .subfzeo .. => false
  | .subfzeoRc .. => false
  | .neg .. => false
  | .negRc .. => false
  | .nego .. => false
  | .negoRc .. => false
  | .addi .. => false
  | .addis .. => false
  | .addic .. => false
  | .addicRc .. => false
  | .subfic .. => false
  | .mullw .. => false
  | .mullwRc .. => false
  | .mullwo .. => false
  | .mullwoRc .. => false
  | .mulhw .. => false
  | .mulhwRc .. => false
  | .mulhwu .. => false
  | .mulhwuRc .. => false
  | .mulli .. => false
  | .divw .. => false
  | .divwRc .. => false
  | .divwo .. => false
  | .divwoRc .. => false
  | .divwu .. => false
  | .divwuRc .. => false
  | .divwuo .. => false
  | .divwuoRc .. => false
  | .cmp .. => false
  | .cmpi .. => false
  | .cmpl .. => false
  | .cmpli .. => false
  | .and .. => false
  | .andRc .. => false
  | .andc .. => false
  | .andcRc .. => false
  | .eqv .. => false
  | .eqvRc .. => false
  | .nand .. => false
  | .nandRc .. => false
  | .nor .. => false
  | .norRc .. => false
  | .or .. => false
  | .orRc .. => false
  | .orc .. => false
  | .orcRc .. => false
  | .xor .. => false
  | .xorRc .. => false
  | .andiRc .. => false
  | .andisRc .. => false
  | .ori .. => false
  | .oris .. => false
  | .xori .. => false
  | .xoris .. => false
  | .extsb .. => false
  | .extsbRc .. => false
  | .extsh .. => false
  | .extshRc .. => false
  | .cntlzw .. => false
  | .cntlzwRc .. => false
  | .slw .. => false
  | .slwRc .. => false
  | .srw .. => false
  | .srwRc .. => false
  | .sraw .. => false
  | .srawRc .. => false
  | .srawi .. => false
  | .srawiRc .. => false
  | .rlwimi .. => false
  | .rlwimiRc .. => false
  | .rlwinm .. => false
  | .rlwinmRc .. => false
  | .rlwnm .. => false
  | .rlwnmRc .. => false
  | .crand .. => false
  | .crandc .. => false
  | .creqv .. => false
  | .crnand .. => false
  | .crnor .. => false
  | .cror .. => false
  | .crorc .. => false
  | .crxor .. => false
  | .mcrf .. => false
  | .lbz .. => false
  | .lbzx .. => false
  | .lbzu .. => false
  | .lbzux .. => false
  | .lhz .. => false
  | .lhzx .. => false
  | .lhzu .. => false
  | .lhzux .. => false
  | .lha .. => false
  | .lhax .. => false
  | .lhau .. => false
  | .lhaux .. => false
  | .lwz .. => false
  | .lwzx .. => false
  | .lwzu .. => false
  | .lwzux .. => false
  | .lhbrx .. => false
  | .lwbrx .. => false
  | .lmw .. => false
  | .lswi .. => false
  | .lswx .. => false
  | .stb .. => true
  | .stbx .. => true
  | .stbu .. => true
  | .stbux .. => true
  | .sth .. => true
  | .sthx .. => true
  | .sthu .. => true
  | .sthux .. => true
  | .stw .. => true
  | .stwx .. => true
  | .stwu .. => true
  | .stwux .. => true
  | .sthbrx .. => true
  | .stwbrx .. => true
  | .stmw .. => true
  | .stswi .. => true
  | .stswx .. => true
  | .mfspr .. => false
  | .mtspr .. => false
  | .mfcr .. => false
  | .mtcrf .. => false
  | .mcrxr .. => false
  | .sc => false

/-- The state differs from `s` only in `FATAL`, which holds `cause` (60_exceptions.md R402). -/
def FatalStopped (s t : State) (cause : FatalCause) : Prop := t = { s with fatal := some cause }

end Sys2Proof.Machine
end

