-- ==== Sys2Proof/Certificates/Slice0/Obligations.lean ====
section
/-! DEFINITION. The statements for the provers. Each formalises what rules of spec/ say an instruction or the machine
does; OBLIGATIONS.json names the rules. -/

open Sys2Proof Sys2Proof.Machine

/-- For every well-formed instruction, with every operand at every value the encoding admits, the decoder reads the
word the encoder writes as that instruction, and the byte decoder reads the encoder's bytes, followed by any bytes,
as that instruction and those bytes. (R92 to R107 (formats), R91 (fields), R119 (decoder)) -/
def Obligations.EncodeDecodeRoundTrip : Prop :=
  ∀ (i : Instr) (rest : List Byte), i.wf = true →
    decodeWord (encode i) = .ok i ∧ decodeBytes (encodeBytes i ++ rest) = .ok (i, rest)

/-- The decode table has 177 rows, and for any two different positions of it there is no word that both rows match.
So the order of the tests is immaterial. (R119 (no two instructions match the same word)) -/
def Obligations.DecodeTableUnambiguous : Prop :=
  decodeTable.length = 177 ∧
    ∀ (j k : Fin decodeTable.length) (w : Word), j ≠ k →
      ¬ (decodeTable[j].matches w = true ∧ decodeTable[k].matches w = true)

/-- If the decoder reads a word as an instruction, that instruction is well-formed: its byte count is 1 to 32 and
its SPR number has ten bits. How the two operands are held is the model's choice (log 19). (R113 (SPR), R115 (NB),
R119 (decoder)) -/
def Obligations.DecodedInstructionWellFormed : Prop :=
  ∀ (w : Word) (i : Instr), decodeWord w = .ok i → i.wf = true

/-- A word whose primary opcode is 0 to 6, 9, 22, 30 or 48 to 63 is rejected for that primary opcode. A word of
primary opcode 17 with bit 1 clear is rejected as no sc. A word of primary opcode 19 or 31 whose ten-bit extended
opcode is not in the map of R122 or R123 (with 523 and 587, the mulhwu and mulhw rows whose ignored bit 10 is set)
is rejected for that extended opcode. (R120 (words that match no instruction), R121, R122, R123) -/
def Obligations.UndecodedWordsRejectedByName : Prop :=
  ∀ w : Word,
    (Field.opcd w ∈ [0#6, 1#6, 2#6, 3#6, 4#6, 5#6, 6#6, 9#6, 22#6, 30#6] ∨ 48 ≤ (Field.opcd w).toNat →
      decodeWord w = .error (.primaryOpcode (Field.opcd w))) ∧
    (Field.opcd w = 17#6 → w.getLsbD 1 = false → decodeWord w = .error .scBit) ∧
    (Field.opcd w = 19#6 → (Field.xo10 w).toNat ∉ [0, 16, 33, 129, 193, 225, 257, 289, 417, 449, 528] →
      decodeWord w = .error (.extendedOpcode 19#6 (Field.xo10 w))) ∧
    (Field.opcd w = 31#6 →
      (Field.xo10 w).toNat ∉
        [0, 8, 10, 11, 19, 23, 24, 26, 28, 32, 40, 55, 60, 75, 87, 104, 119, 124, 136, 138, 144, 151, 183, 200, 202,
         215, 232, 234, 235, 247, 266, 279, 284, 311, 316, 339, 343, 375, 407, 412, 439, 444, 459, 467, 476, 491,
         512, 520, 522, 523, 533, 534, 536, 552, 587, 597, 616, 648, 650, 661, 662, 712, 714, 725, 744, 746, 747,
         778, 790, 792, 824, 918, 922, 954, 971, 1003] →
      decodeWord w = .error (.extendedOpcode 31#6 (Field.xo10 w)))

/-- For every row of the opcode table that has reserved bits (listed as its mask, its match and its reserved bits,
from the row's rule; the L bit of a compare, which the instruction term keeps, apart), a word the row matches
decodes to the same instruction whatever its reserved bits hold. That they are ignored is the spec's decision D3,
which the model follows (log 15). (R124 (reserved fields are ignored)) -/
def Obligations.ReservedBitsIgnored : Prop :=
  ∀ row ∈ ([
      (0xFC0007FF#32, 0x4C000020#32, 0x0000F800#32), (0xFC0007FF#32, 0x4C000021#32, 0x0000F800#32), (0xFC0007FF#32, 0x4C000420#32, 0x0000F800#32),
      (0xFC0007FF#32, 0x4C000421#32, 0x0000F800#32), (0xFC0007FF#32, 0x7C0001D4#32, 0x0000F800#32), (0xFC0007FF#32, 0x7C0001D5#32, 0x0000F800#32),
      (0xFC0007FF#32, 0x7C0005D4#32, 0x0000F800#32), (0xFC0007FF#32, 0x7C0005D5#32, 0x0000F800#32), (0xFC0007FF#32, 0x7C000194#32, 0x0000F800#32),
      (0xFC0007FF#32, 0x7C000195#32, 0x0000F800#32), (0xFC0007FF#32, 0x7C000594#32, 0x0000F800#32), (0xFC0007FF#32, 0x7C000595#32, 0x0000F800#32),
      (0xFC0007FF#32, 0x7C0001D0#32, 0x0000F800#32), (0xFC0007FF#32, 0x7C0001D1#32, 0x0000F800#32), (0xFC0007FF#32, 0x7C0005D0#32, 0x0000F800#32),
      (0xFC0007FF#32, 0x7C0005D1#32, 0x0000F800#32), (0xFC0007FF#32, 0x7C000190#32, 0x0000F800#32), (0xFC0007FF#32, 0x7C000191#32, 0x0000F800#32),
      (0xFC0007FF#32, 0x7C000590#32, 0x0000F800#32), (0xFC0007FF#32, 0x7C000591#32, 0x0000F800#32), (0xFC0007FF#32, 0x7C0000D0#32, 0x0000F800#32),
      (0xFC0007FF#32, 0x7C0000D1#32, 0x0000F800#32), (0xFC0007FF#32, 0x7C0004D0#32, 0x0000F800#32), (0xFC0007FF#32, 0x7C0004D1#32, 0x0000F800#32),
      (0xFC0003FF#32, 0x7C000096#32, 0x00000400#32), (0xFC0003FF#32, 0x7C000097#32, 0x00000400#32), (0xFC0003FF#32, 0x7C000016#32, 0x00000400#32),
      (0xFC0003FF#32, 0x7C000017#32, 0x00000400#32), (0xFC0007FE#32, 0x7C000000#32, 0x00400001#32), (0xFC000000#32, 0x2C000000#32, 0x00400000#32),
      (0xFC0007FE#32, 0x7C000040#32, 0x00400001#32), (0xFC000000#32, 0x28000000#32, 0x00400000#32), (0xFC0007FF#32, 0x7C000774#32, 0x0000F800#32),
      (0xFC0007FF#32, 0x7C000775#32, 0x0000F800#32), (0xFC0007FF#32, 0x7C000734#32, 0x0000F800#32), (0xFC0007FF#32, 0x7C000735#32, 0x0000F800#32),
      (0xFC0007FF#32, 0x7C000034#32, 0x0000F800#32), (0xFC0007FF#32, 0x7C000035#32, 0x0000F800#32), (0xFC0007FE#32, 0x4C000202#32, 0x00000001#32),
      (0xFC0007FE#32, 0x4C000102#32, 0x00000001#32), (0xFC0007FE#32, 0x4C000242#32, 0x00000001#32), (0xFC0007FE#32, 0x4C0001C2#32, 0x00000001#32),
      (0xFC0007FE#32, 0x4C000042#32, 0x00000001#32), (0xFC0007FE#32, 0x4C000382#32, 0x00000001#32), (0xFC0007FE#32, 0x4C000342#32, 0x00000001#32),
      (0xFC0007FE#32, 0x4C000182#32, 0x00000001#32), (0xFC0007FE#32, 0x4C000000#32, 0x0063F801#32), (0xFC0007FE#32, 0x7C0000AE#32, 0x00000001#32),
      (0xFC0007FE#32, 0x7C0000EE#32, 0x00000001#32), (0xFC0007FE#32, 0x7C00022E#32, 0x00000001#32), (0xFC0007FE#32, 0x7C00026E#32, 0x00000001#32),
      (0xFC0007FE#32, 0x7C0002AE#32, 0x00000001#32), (0xFC0007FE#32, 0x7C0002EE#32, 0x00000001#32), (0xFC0007FE#32, 0x7C00002E#32, 0x00000001#32),
      (0xFC0007FE#32, 0x7C00006E#32, 0x00000001#32), (0xFC0007FE#32, 0x7C00062C#32, 0x00000001#32), (0xFC0007FE#32, 0x7C00042C#32, 0x00000001#32),
      (0xFC0007FE#32, 0x7C0004AA#32, 0x00000001#32), (0xFC0007FE#32, 0x7C00042A#32, 0x00000001#32), (0xFC0007FE#32, 0x7C0001AE#32, 0x00000001#32),
      (0xFC0007FE#32, 0x7C0001EE#32, 0x00000001#32), (0xFC0007FE#32, 0x7C00032E#32, 0x00000001#32), (0xFC0007FE#32, 0x7C00036E#32, 0x00000001#32),
      (0xFC0007FE#32, 0x7C00012E#32, 0x00000001#32), (0xFC0007FE#32, 0x7C00016E#32, 0x00000001#32), (0xFC0007FE#32, 0x7C00072C#32, 0x00000001#32),
      (0xFC0007FE#32, 0x7C00052C#32, 0x00000001#32), (0xFC0007FE#32, 0x7C0005AA#32, 0x00000001#32), (0xFC0007FE#32, 0x7C00052A#32, 0x00000001#32),
      (0xFC0007FE#32, 0x7C0002A6#32, 0x00000001#32), (0xFC0007FE#32, 0x7C0003A6#32, 0x00000001#32), (0xFC0007FE#32, 0x7C000026#32, 0x001FF801#32),
      (0xFC0007FE#32, 0x7C000120#32, 0x00100801#32), (0xFC0007FE#32, 0x7C000400#32, 0x007FF801#32), (0xFC000002#32, 0x44000002#32, 0x03FFFFFD#32)] : List (Word × Word × Word)),
    ∀ w v : Word, w &&& row.1 = row.2.1 → w &&& ~~~row.2.2 = v &&& ~~~row.2.2 → decodeWord w = decodeWord v

/-- One word of each family, as the spec's examples write it (b .-8, bc 12,2,.+32, addo. r3,r4,r5, addis r3,r0,4660,
mullwo r3,r4,r5, or. r3,r4,r4, rlwimi r4,r3,8,16,23, crand 6,1,2, lbz r3,-1(r4), lswi r31,r4,8, sthbrx r3,r0,r4,
mtspr 260,r3, sc), decodes to that instruction. (R119 (decoder), Part 2) -/
def Obligations.SampleWordsDecode : Prop :=
  decodeWord 0x4BFFFFF8#32 = .ok (.b 0xFFFFFE#24) ∧
    decodeWord 0x41820020#32 = .ok (.bc 12#5 2#5 8#14) ∧
    decodeWord 0x7C642E15#32 = .ok (.addoRc 3#5 4#5 5#5) ∧
    decodeWord 0x3C601234#32 = .ok (.addis 3#5 0#5 0x1234#16) ∧
    decodeWord 0x7C642DD6#32 = .ok (.mullwo 3#5 4#5 5#5) ∧
    decodeWord 0x7C832379#32 = .ok (.orRc 3#5 4#5 4#5) ∧
    decodeWord 0x5064442E#32 = .ok (.rlwimi 4#5 3#5 8#5 16#5 23#5) ∧
    decodeWord 0x4CC11202#32 = .ok (.crand 6#5 1#5 2#5) ∧
    decodeWord 0x8864FFFF#32 = .ok (.lbz 3#5 4#5 0xFFFF#16) ∧
    decodeWord 0x7FE444AA#32 = .ok (.lswi 31#5 4#5 8) ∧
    decodeWord 0x7C60272C#32 = .ok (.sthbrx 3#5 0#5 4#5) ∧
    decodeWord 0x7C6443A6#32 = .ok (.mtspr 260 3#5) ∧
    decodeWord 0x44000002#32 = .ok (.sc)

/-- In every state whose latch is clear and whose pc is a multiple of 4, if the four bytes from pc on, each address
modulo 2^32, decode to the well-formed instruction i, then step is exec of i on that same state: the step adds
nothing around exec (no delay slot, no counter). (R12 (the step), R67 (fetch)) -/
def Obligations.StepRunsDecodedInstruction : Prop :=
  ∀ (s : State) (i : Instr) (rest : List Byte), s.fatal = none → s.pc.toNat % 4 = 0 → i.wf = true →
    decodeBytes [s.mem.readByte s.pc, s.mem.readByte (s.pc + 1#32), s.mem.readByte (s.pc + 2#32),
      s.mem.readByte (s.pc + 3#32)] = .ok (i, rest) →
    step s = exec i s

/-- While FATAL is set, with either cause, a step answers the very same state. That a halted core takes such a step
at all is the model's reading (log 9). (R403 (a halted core executes nothing)) -/
def Obligations.HaltedCoreChangesNothing : Prop :=
  ∀ (s : State) (c : FatalCause), s.fatal = some c → step s = .next s

/-- In every running state with an aligned pc whose fetched word matches no row of the opcode table, the step is the
fatal stop with cause UNDECODED: only the latch changes, pc stays at the word. In particular a fetch from four bytes
outside the implemented memory, which reads zeros, is such a word. That the stop is a next state is the model's
reading (log 9). (R120 (undecoded words), R402 (FATAL_STOP), R66 (fetch outside the range)) -/
def Obligations.UndecodedWordHalts : Prop :=
  ∀ s : State, s.fatal = none → s.pc.toNat % 4 = 0 →
    (((∃ e, decodeWord s.fetch = .error e) ∨
        (s.mem.implements s.pc = false ∧ s.mem.implements (s.pc + 1#32) = false ∧
          s.mem.implements (s.pc + 2#32) = false ∧ s.mem.implements (s.pc + 3#32) = false)) →
      ∃ t, step s = .next t ∧ FatalStopped s t .undecoded)

/-- For every state: if the core is halted or pc is a multiple of 4, the step answers a next state; otherwise it is
refused for the misaligned pc. The core raises no exception. That a misaligned pc is refused is what the spec tells
a model to do, and the model's choice (log 7); that a halted core's step, and a step that ends in the fatal stop,
answers a next state is the model's reading (log 9). (R400 (no synchronous exception), R403 (a halted core executes
nothing), R12 (the step), R23 (pc alignment), U9) -/
def Obligations.StepOutcomes : Prop :=
  ∀ s : State,
    ((s.fatal ≠ none ∨ s.pc.toNat % 4 = 0) → ∃ t, step s = .next t) ∧
    (s.fatal = none → s.pc.toNat % 4 ≠ 0 → step s = .refused .misalignedPc)

/-- If a step of a running core leaves FATAL set, then the new state differs from the old one in the latch alone,
and either the cause is UNDECODED and the fetched word matches no instruction, or the cause is SPR and the fetched
word is an mfspr or mtspr whose number is none of 8, 9, 256, 260, 261, 262, 263. That the stop is a next state is
the model's reading (log 9). (R401 (table of causes), R402 (FATAL_STOP), R406 (priority)) -/
def Obligations.FatalStopCauses : Prop :=
  ∀ (s t : State) (c : FatalCause), s.fatal = none → step s = .next t → t.fatal = some c →
    FatalStopped s t c ∧
      ((c = .undecoded ∧ ∃ e, decodeWord s.fetch = .error e) ∨
        (c = .spr ∧ ∃ n r, n ∉ [8, 9, 256, 260, 261, 262, 263] ∧
          (decodeWord s.fetch = .ok (.mfspr r n) ∨ decodeWord s.fetch = .ok (.mtspr n r))))

/-- For every state in which pc is a multiple of 4 and the memory is in canonical form (addresses strictly rising,
inside the implemented range, no listed byte equal to an unlisted one), the next state has both properties too. The
canonical form is the model's own (log 3). (R23 (PC is always a multiple of 4), R155, R70 (memory is plain storage)) -/
def Obligations.StepKeepsInvariant : Prop :=
  ∀ s t : State, s.Inv → step s = .next t → t.Inv

/-- FATAL is clear in the reset state, pc is a multiple of 4 and the memory is in canonical form. The value of pc
and the empty memory are the model's choice (logs 2, 3, 4). (R430, R431) -/
def Obligations.ResetStateMeetsInvariant : Prop :=
  State.reset.Inv ∧ State.reset.fatal = none

/-- For every RESET_PC and every RESET_STATE, the launch state has FATAL clear, pc equal to RESET_PC, and every
general register, CR, XER, LR, CTR, USPRG0, SPRG4 to SPRG7 and every memory byte as RESET_STATE gives them. The
model's reset state is the launch at RESET_PC = 0 with RESET_STATE all zero over a wholly implemented memory (its
choice, logs 1 to 4). (R430, R431, R40) -/
def Obligations.LaunchFollowsParameters : Prop :=
  (∀ (resetPc : Word) (r : ResetState),
      let s := State.launch resetPc r
      s.fatal = none ∧ s.pc = resetPc ∧ s.cr = r.cr ∧ s.xer = r.xer ∧ s.lr = r.lr ∧ s.ctr = r.ctr ∧
        s.usprg0 = r.usprg0 ∧ s.sprg4 = r.sprg4 ∧ s.sprg5 = r.sprg5 ∧ s.sprg6 = r.sprg6 ∧ s.sprg7 = r.sprg7 ∧
        (∀ x : Reg, s.readGpr x = r.gpr[x.toNat]'x.isLt) ∧ (∀ a, s.mem.readByte a = r.mem.readByte a)) ∧
    State.reset = State.launch 0#32 ResetState.chosen

/-- Whatever instruction a step executes, bits 28 to 0 of XER (the unnamed bits 28 to 7 and TBC, bits 6 to 0) are in
the next state as they were. (R27 (no instruction writes TBC or XER[28:7]), R28 (the unnamed bits are storage)) -/
def Obligations.XerStorageBitsNeverChange : Prop :=
  ∀ s t : State, step s = .next t → ∀ k, k < 29 → t.xer.getLsbD k = s.xer.getLsbD k

/-- If XER.SO is set before a step and the word at pc does not decode to mcrxr, then XER.SO is set after the step.
(R27 (XER.SO is sticky), R390 (mcrxr)) -/
def Obligations.SummaryOverflowIsSticky : Prop :=
  ∀ s t : State, step s = .next t → s.so = true → (∀ f, decodeWord s.fetch ≠ .ok (.mcrxr f)) → t.so = true

/-- If the word at pc does not decode to one of the 17 stores, every byte of memory reads after the step as before.
Whatever the instruction, the implemented range does not change. (R37 (memory is written by stores), R60 (what
reaches the space), R66) -/
def Obligations.OnlyStoresChangeMemory : Prop :=
  ∀ s t : State, step s = .next t →
    t.mem.base = s.mem.base ∧ t.mem.size = s.mem.size ∧
      ((∀ i, decodeWord s.fetch = .ok i → isStore i = false) → MemSame s t)

/-- If a step changes USPRG0 or SPRG4 to SPRG7, its instruction is mtspr with that register's number. If it changes
LR, its instruction is a linking branch or mtspr 8. If it changes CTR, its instruction is a conditional branch with
bit 2 of BO clear or mtspr 9. (R37 (read and write sets), R29 (LR), R30 (CTR), R31 (software SPRs)) -/
def Obligations.SpecialRegisterWriters : Prop :=
  ∀ s t : State, step s = .next t →
    (t.usprg0 ≠ s.usprg0 → ∃ r, decodeWord s.fetch = .ok (.mtspr 256 r)) ∧
    (t.sprg4 ≠ s.sprg4 → ∃ r, decodeWord s.fetch = .ok (.mtspr 260 r)) ∧
    (t.sprg5 ≠ s.sprg5 → ∃ r, decodeWord s.fetch = .ok (.mtspr 261 r)) ∧
    (t.sprg6 ≠ s.sprg6 → ∃ r, decodeWord s.fetch = .ok (.mtspr 262 r)) ∧
    (t.sprg7 ≠ s.sprg7 → ∃ r, decodeWord s.fetch = .ok (.mtspr 263 r)) ∧
    (t.lr ≠ s.lr →
      (∃ r, decodeWord s.fetch = .ok (.mtspr 8 r)) ∨
      (∃ li, decodeWord s.fetch = .ok (.bl li) ∨ decodeWord s.fetch = .ok (.bla li)) ∨
      (∃ bo bi bd, decodeWord s.fetch = .ok (.bcl bo bi bd) ∨ decodeWord s.fetch = .ok (.bcla bo bi bd)) ∨
      (∃ bo bi, decodeWord s.fetch = .ok (.bclrl bo bi) ∨ decodeWord s.fetch = .ok (.bcctrl bo bi))) ∧
    (t.ctr ≠ s.ctr →
      (∃ r, decodeWord s.fetch = .ok (.mtspr 9 r)) ∨
      (∃ bo bi, bo.getLsbD 2 = false ∧
        ((∃ bd, decodeWord s.fetch = .ok (.bc bo bi bd) ∨ decodeWord s.fetch = .ok (.bca bo bi bd) ∨
            decodeWord s.fetch = .ok (.bcl bo bi bd) ∨ decodeWord s.fetch = .ok (.bcla bo bi bd)) ∨
          decodeWord s.fetch = .ok (.bclr bo bi) ∨ decodeWord s.fetch = .ok (.bclrl bo bi) ∨
          decodeWord s.fetch = .ok (.bcctr bo bi) ∨ decodeWord s.fetch = .ok (.bcctrl bo bi))))

/-- When stw stores to the address after itself and those four bytes are implemented, the state after it fetches
exactly the stored register: self-modifying code needs no synchronisation. (R76 (instruction-fetch coherence), R67
(fetch)) -/
def Obligations.StoredWordIsFetchedNext : Prop :=
  ∀ (s : State) (rS rA : Reg) (d : BitVec 16), s.eaD rA d = s.pc + 4#32 →
    (∀ a, InAccess (s.pc + 4#32) 4 a → s.mem.implements a = true) →
    Completes (.stw rS rA d) s fun t => t.pc = s.pc + 4#32 ∧ t.fetch = s.readGpr rS

/-- Every unconditional branch completes in every state. With disp four times LI read as a signed number, b and bl
go to the instruction's own address plus disp, ba and bla to disp; bl and bla write the address after the branch to
LR. CTR, CR, XER, every general register, the software SPRs, FATAL and every byte of memory are unchanged. (R151
(displacement targets), R152 (link), R154 (order), R156 to R159) -/
def Obligations.UnconditionalBranchResults : Prop :=
  ∀ (li : BitVec 24) (s : State),
    let disp : Word := BitVec.ofInt 32 (4 * li.toInt)
    Completes (.b li) s (fun t => t.pc = s.pc + disp ∧ t.lr = s.lr ∧ t.ctr = s.ctr ∧ BranchFrame s t) ∧
    Completes (.ba li) s (fun t => t.pc = disp ∧ t.lr = s.lr ∧ t.ctr = s.ctr ∧ BranchFrame s t) ∧
    Completes (.bl li) s (fun t => t.pc = s.pc + disp ∧ t.lr = s.pc + 4#32 ∧ t.ctr = s.ctr ∧ BranchFrame s t) ∧
    Completes (.bla li) s (fun t => t.pc = disp ∧ t.lr = s.pc + 4#32 ∧ t.ctr = s.ctr ∧ BranchFrame s t)

/-- Every conditional branch completes in every state, for every BO, BI and displacement. If bit 2 of BO is clear,
CTR is decremented first, wrapping, whether or not the branch is taken; otherwise it is unchanged. The branch is
taken when the CTR part (bit 2 set, or the new CTR is nonzero exactly when bit 1 of BO is clear) and the CR part
(bit 4 of BO set, or CR[31-BI] equals bit 3 of BO) both hold. A taken branch goes to the address plus four times BD
signed, to that value itself, to the old LR or to the new CTR with its low two bits cleared; an untaken one to the
next instruction. The linking forms write LR whether or not the branch is taken. Nothing else changes. That bcctr
and bcctrl decrement and then go to the new CTR when bit 2 of BO is clear is the spec's decision D10, which the
model follows (log 12). (R138 (BRCOND), R151, R152, R153, R154, R160 to R167) -/
def Obligations.ConditionalBranchResults : Prop :=
  ∀ (bo : BitVec 5) (bi : CrBit) (bd : BitVec 14) (s : State),
    let ctr : Word := if bo.getLsbD 2 then s.ctr else s.ctr - 1#32
    let taken : Bool := (bo.getLsbD 2 || (decide (ctr ≠ 0#32) == !bo.getLsbD 1)) &&
      (bo.getLsbD 4 || (s.cr.getLsbD (31 - bi.toNat) == bo.getLsbD 3))
    let disp : Word := BitVec.ofInt 32 (4 * bd.toInt)
    Completes (.bc bo bi bd) s (fun t => t.pc = (if taken then s.pc + disp else s.pc + 4#32) ∧ t.lr = s.lr ∧ t.ctr = ctr ∧
      BranchFrame s t) ∧
    Completes (.bca bo bi bd) s (fun t => t.pc = (if taken then disp else s.pc + 4#32) ∧ t.lr = s.lr ∧ t.ctr = ctr ∧
      BranchFrame s t) ∧
    Completes (.bcl bo bi bd) s (fun t => t.pc = (if taken then s.pc + disp else s.pc + 4#32) ∧ t.lr = s.pc + 4#32 ∧ t.ctr = ctr ∧
      BranchFrame s t) ∧
    Completes (.bcla bo bi bd) s (fun t => t.pc = (if taken then disp else s.pc + 4#32) ∧ t.lr = s.pc + 4#32 ∧ t.ctr = ctr ∧
      BranchFrame s t) ∧
    Completes (.bclr bo bi) s (fun t => t.pc = (if taken then 4#32 * (s.lr / 4#32) else s.pc + 4#32) ∧ t.lr = s.lr ∧
      t.ctr = ctr ∧ BranchFrame s t) ∧
    Completes (.bclrl bo bi) s (fun t => t.pc = (if taken then 4#32 * (s.lr / 4#32) else s.pc + 4#32) ∧ t.lr = s.pc + 4#32 ∧
      t.ctr = ctr ∧ BranchFrame s t) ∧
    Completes (.bcctr bo bi) s (fun t => t.pc = (if taken then 4#32 * (ctr / 4#32) else s.pc + 4#32) ∧ t.lr = s.lr ∧
      t.ctr = ctr ∧ BranchFrame s t) ∧
    Completes (.bcctrl bo bi) s (fun t => t.pc = (if taken then 4#32 * (ctr / 4#32) else s.pc + 4#32) ∧ t.lr = s.pc + 4#32 ∧
      t.ctr = ctr ∧ BranchFrame s t)

/-- For each of the 32 values of BO, in every state and for every BI: the rows of the table of R138 say whether CTR
is decremented, wrapping, or unchanged, and exactly when the branch is taken in terms of the new CTR and of the CR
bit with MSB-first number BI. (R138 (full table of the 32 BO values), R125 (hint bits)) -/
def Obligations.BranchConditionTable : Prop :=
  ∀ (bo : BitVec 5) (bi : CrBit) (s : State),
    let newCtr : Word := branchCtr s.ctr bo
    let crBit : Bool := s.cr.getLsbD (31 - bi.toNat)
    (bo.toNat ∈ [0, 1] → newCtr = s.ctr - 1#32 ∧ (s.branchTaken bo bi = true ↔ newCtr ≠ 0#32 ∧ crBit = false)) ∧
    (bo.toNat ∈ [2, 3] → newCtr = s.ctr - 1#32 ∧ (s.branchTaken bo bi = true ↔ newCtr = 0#32 ∧ crBit = false)) ∧
    (bo.toNat ∈ [4, 5, 6, 7] → newCtr = s.ctr ∧ (s.branchTaken bo bi = true ↔ crBit = false)) ∧
    (bo.toNat ∈ [8, 9] → newCtr = s.ctr - 1#32 ∧ (s.branchTaken bo bi = true ↔ newCtr ≠ 0#32 ∧ crBit = true)) ∧
    (bo.toNat ∈ [10, 11] → newCtr = s.ctr - 1#32 ∧ (s.branchTaken bo bi = true ↔ newCtr = 0#32 ∧ crBit = true)) ∧
    (bo.toNat ∈ [12, 13, 14, 15] → newCtr = s.ctr ∧ (s.branchTaken bo bi = true ↔ crBit = true)) ∧
    (bo.toNat ∈ [16, 17, 24, 25] → newCtr = s.ctr - 1#32 ∧ (s.branchTaken bo bi = true ↔ newCtr ≠ 0#32)) ∧
    (bo.toNat ∈ [18, 19, 26, 27] → newCtr = s.ctr - 1#32 ∧ (s.branchTaken bo bi = true ↔ newCtr = 0#32)) ∧
    (bo.toNat ∈ [20, 21, 22, 23, 28, 29, 30, 31] → newCtr = s.ctr ∧ (s.branchTaken bo bi = true ↔ True))

/-- add, addc, adde, addme, addze, each plain, record, overflow-recording and both, complete in every state and for
every choice of registers, equal ones included. The destination receives the exact signed sum (rA + rB, plus the
incoming carry for adde; rA + carry - 1; rA + carry) modulo 2^32. The carrying ones set CA to whether the unsigned
sum of the addends exceeds 0xFFFFFFFF, add leaves CA. With OE, OV says whether the exact sum is outside -2^31 to
2^31 - 1 and SO is set with it, never cleared. With Rc, CR0 is LT, GT, EQ of the result and the new SO. pc advances
by 4 and nothing else changes. (R170 (family pattern), R172 to R191, R130, R131, R132, R140) -/
def Obligations.AddFamilyResults : Prop :=
  ∀ (rD rA rB : Reg) (s : State),
    let a := s.readGpr rA
    let b := s.readGpr rB
    let c : Nat := s.ca.toNat
    ArithEffect (.add rD rA rB) s rD (a.toInt + b.toInt) (s.ca) false false ∧
    ArithEffect (.addRc rD rA rB) s rD (a.toInt + b.toInt) (s.ca) false true ∧
    ArithEffect (.addo rD rA rB) s rD (a.toInt + b.toInt) (s.ca) true false ∧
    ArithEffect (.addoRc rD rA rB) s rD (a.toInt + b.toInt) (s.ca) true true ∧
    ArithEffect (.addc rD rA rB) s rD (a.toInt + b.toInt) (decide (4294967296 ≤ a.toNat + b.toNat)) false false ∧
    ArithEffect (.addcRc rD rA rB) s rD (a.toInt + b.toInt) (decide (4294967296 ≤ a.toNat + b.toNat)) false true ∧
    ArithEffect (.addco rD rA rB) s rD (a.toInt + b.toInt) (decide (4294967296 ≤ a.toNat + b.toNat)) true false ∧
    ArithEffect (.addcoRc rD rA rB) s rD (a.toInt + b.toInt) (decide (4294967296 ≤ a.toNat + b.toNat)) true true ∧
    ArithEffect (.adde rD rA rB) s rD (a.toInt + b.toInt + c) (decide (4294967296 ≤ a.toNat + b.toNat + c)) false false ∧
    ArithEffect (.addeRc rD rA rB) s rD (a.toInt + b.toInt + c) (decide (4294967296 ≤ a.toNat + b.toNat + c)) false true ∧
    ArithEffect (.addeo rD rA rB) s rD (a.toInt + b.toInt + c) (decide (4294967296 ≤ a.toNat + b.toNat + c)) true false ∧
    ArithEffect (.addeoRc rD rA rB) s rD (a.toInt + b.toInt + c) (decide (4294967296 ≤ a.toNat + b.toNat + c)) true true ∧
    ArithEffect (.addme rD rA) s rD (a.toInt + c - 1) (decide (4294967296 ≤ a.toNat + c + 4294967295)) false false ∧
    ArithEffect (.addmeRc rD rA) s rD (a.toInt + c - 1) (decide (4294967296 ≤ a.toNat + c + 4294967295)) false true ∧
    ArithEffect (.addmeo rD rA) s rD (a.toInt + c - 1) (decide (4294967296 ≤ a.toNat + c + 4294967295)) true false ∧
    ArithEffect (.addmeoRc rD rA) s rD (a.toInt + c - 1) (decide (4294967296 ≤ a.toNat + c + 4294967295)) true true ∧
    ArithEffect (.addze rD rA) s rD (a.toInt + c) (decide (4294967296 ≤ a.toNat + c)) false false ∧
    ArithEffect (.addzeRc rD rA) s rD (a.toInt + c) (decide (4294967296 ≤ a.toNat + c)) false true ∧
    ArithEffect (.addzeo rD rA) s rD (a.toInt + c) (decide (4294967296 ≤ a.toNat + c)) true false ∧
    ArithEffect (.addzeoRc rD rA) s rD (a.toInt + c) (decide (4294967296 ≤ a.toNat + c)) true true

/-- subf, subfc, subfe, subfme, subfze and neg, each plain, record, overflow-recording and both, complete in every
state. Although they add the complement of rA, the destination receives the exact signed difference modulo 2^32 (rB
- rA; with the carry in place of the 1, rB - rA - 1 + CA; CA - rA - 2; CA - rA - 1; -rA), OV is the true signed
overflow of that difference, and CA is set exactly when there is no borrow. SO is sticky, CR0 follows the result,
and nothing else changes. (R171 (subtraction is addition of the complement), R192 to R215, R131, R132) -/
def Obligations.SubtractFamilyResults : Prop :=
  ∀ (rD rA rB : Reg) (s : State),
    let a := s.readGpr rA
    let b := s.readGpr rB
    let c : Nat := s.ca.toNat
    ArithEffect (.subf rD rA rB) s rD (b.toInt - a.toInt) (s.ca) false false ∧
    ArithEffect (.subfRc rD rA rB) s rD (b.toInt - a.toInt) (s.ca) false true ∧
    ArithEffect (.subfo rD rA rB) s rD (b.toInt - a.toInt) (s.ca) true false ∧
    ArithEffect (.subfoRc rD rA rB) s rD (b.toInt - a.toInt) (s.ca) true true ∧
    ArithEffect (.subfc rD rA rB) s rD (b.toInt - a.toInt) (decide (a.toNat ≤ b.toNat)) false false ∧
    ArithEffect (.subfcRc rD rA rB) s rD (b.toInt - a.toInt) (decide (a.toNat ≤ b.toNat)) false true ∧
    ArithEffect (.subfco rD rA rB) s rD (b.toInt - a.toInt) (decide (a.toNat ≤ b.toNat)) true false ∧
    ArithEffect (.subfcoRc rD rA rB) s rD (b.toInt - a.toInt) (decide (a.toNat ≤ b.toNat)) true true ∧
    ArithEffect (.subfe rD rA rB) s rD (b.toInt - a.toInt - 1 + c) (decide (a.toNat + 1 ≤ b.toNat + c)) false false ∧
    ArithEffect (.subfeRc rD rA rB) s rD (b.toInt - a.toInt - 1 + c) (decide (a.toNat + 1 ≤ b.toNat + c)) false true ∧
    ArithEffect (.subfeo rD rA rB) s rD (b.toInt - a.toInt - 1 + c) (decide (a.toNat + 1 ≤ b.toNat + c)) true false ∧
    ArithEffect (.subfeoRc rD rA rB) s rD (b.toInt - a.toInt - 1 + c) (decide (a.toNat + 1 ≤ b.toNat + c)) true true ∧
    ArithEffect (.subfme rD rA) s rD (c - a.toInt - 2) (decide (a ≠ 0xFFFFFFFF#32 ∨ c = 1)) false false ∧
    ArithEffect (.subfmeRc rD rA) s rD (c - a.toInt - 2) (decide (a ≠ 0xFFFFFFFF#32 ∨ c = 1)) false true ∧
    ArithEffect (.subfmeo rD rA) s rD (c - a.toInt - 2) (decide (a ≠ 0xFFFFFFFF#32 ∨ c = 1)) true false ∧
    ArithEffect (.subfmeoRc rD rA) s rD (c - a.toInt - 2) (decide (a ≠ 0xFFFFFFFF#32 ∨ c = 1)) true true ∧
    ArithEffect (.subfze rD rA) s rD (c - a.toInt - 1) (decide (a = 0#32 ∧ c = 1)) false false ∧
    ArithEffect (.subfzeRc rD rA) s rD (c - a.toInt - 1) (decide (a = 0#32 ∧ c = 1)) false true ∧
    ArithEffect (.subfzeo rD rA) s rD (c - a.toInt - 1) (decide (a = 0#32 ∧ c = 1)) true false ∧
    ArithEffect (.subfzeoRc rD rA) s rD (c - a.toInt - 1) (decide (a = 0#32 ∧ c = 1)) true true ∧
    ArithEffect (.neg rD rA) s rD (- a.toInt) (s.ca) false false ∧
    ArithEffect (.negRc rD rA) s rD (- a.toInt) (s.ca) false true ∧
    ArithEffect (.nego rD rA) s rD (- a.toInt) (s.ca) true false ∧
    ArithEffect (.negoRc rD rA) s rD (- a.toInt) (s.ca) true true

/-- The five immediate adds complete in every state. addi and addis add the signed immediate, or the immediate times
2^16, to rA, or to zero when rA is register number 0, and touch no flag. addic and addic. add the signed immediate
to the real rA and set CA to the unsigned carry of the sum with the sign-extended immediate. subfic subtracts rA
from the signed immediate and sets CA when there is no borrow. addic. records CR0. Nothing else changes. (R216 to
R220, R21 (register 0), R108 (SIMM)) -/
def Obligations.AddImmediateResults : Prop :=
  ∀ (rD rA : Reg) (simm : BitVec 16) (s : State),
    let a := s.readGpr rA
    let base : Word := if rA = 0#5 then 0#32 else a
    let imm : Word := BitVec.ofInt 32 simm.toInt
    ArithEffect (.addi rD rA simm) s rD (base.toInt + simm.toInt) s.ca false false ∧
    ArithEffect (.addis rD rA simm) s rD (base.toInt + 65536 * simm.toInt) s.ca false false ∧
    ArithEffect (.addic rD rA simm) s rD (a.toInt + simm.toInt) (decide (4294967296 ≤ a.toNat + imm.toNat)) false false ∧
    ArithEffect (.addicRc rD rA simm) s rD (a.toInt + simm.toInt) (decide (4294967296 ≤ a.toNat + imm.toNat)) false true ∧
    ArithEffect (.subfic rD rA simm) s rD (simm.toInt - a.toInt) (decide (a.toNat ≤ imm.toNat)) false false

/-- mullw in its four forms and mulli complete in every state and write the exact signed product modulo 2^32; with
OE, OV says whether the product is outside -2^31 to 2^31 - 1 and SO is set with it. mulhw and mulhwu write the high
word, the floor of the signed or unsigned product divided by 2^32, and leave XER. The record forms set CR0 from the
written word. CA is never written and nothing else changes. (R230, R233 to R241, R133 (OVMUL)) -/
def Obligations.MultiplyResults : Prop :=
  ∀ (rD rA rB : Reg) (simm : BitVec 16) (s : State),
    let a := s.readGpr rA
    let b := s.readGpr rB
    ArithEffect (.mullw rD rA rB) s rD (a.toInt * b.toInt) s.ca false false ∧
    ArithEffect (.mullwRc rD rA rB) s rD (a.toInt * b.toInt) s.ca false true ∧
    ArithEffect (.mullwo rD rA rB) s rD (a.toInt * b.toInt) s.ca true false ∧
    ArithEffect (.mullwoRc rD rA rB) s rD (a.toInt * b.toInt) s.ca true true ∧
    ArithEffect (.mulli rD rA simm) s rD (a.toInt * simm.toInt) s.ca false false ∧
    WordEffect (.mulhw rD rA rB) s rD (BitVec.ofInt 32 ((a.toInt * b.toInt) / 4294967296)) false ∧
    WordEffect (.mulhwRc rD rA rB) s rD (BitVec.ofInt 32 ((a.toInt * b.toInt) / 4294967296)) true ∧
    WordEffect (.mulhwu rD rA rB) s rD (BitVec.ofNat 32 ((a.toNat * b.toNat) / 4294967296)) false ∧
    WordEffect (.mulhwuRc rD rA rB) s rD (BitVec.ofNat 32 ((a.toNat * b.toNat) / 4294967296)) true

/-- With a nonzero divisor, and for divw not -2^31 divided by -1, the four forms of divw write the signed quotient
rounded toward zero and the four forms of divwu the floor of the unsigned quotient. The overflow-recording forms
clear OV and keep SO, the others leave both; CA is never written. The record forms set CR0. Nothing else changes.
(R230, R242 to R249, R134, R135) -/
def Obligations.DefinedDivisionResults : Prop :=
  ∀ (rD rA rB : Reg) (s : State),
    let a := s.readGpr rA
    let b := s.readGpr rB
    b ≠ 0#32 →
    ((a ≠ 0x80000000#32 ∨ b ≠ 0xFFFFFFFF#32) →
      Completes (.divw rD rA rB) s (fun t =>
        RegEffect s t rD false (BitVec.ofInt 32 (a.toInt.tdiv b.toInt)) s.so s.ov s.ca) ∧
      Completes (.divwRc rD rA rB) s (fun t =>
        RegEffect s t rD true (BitVec.ofInt 32 (a.toInt.tdiv b.toInt)) s.so s.ov s.ca) ∧
      Completes (.divwo rD rA rB) s (fun t =>
        RegEffect s t rD false (BitVec.ofInt 32 (a.toInt.tdiv b.toInt)) s.so false s.ca) ∧
      Completes (.divwoRc rD rA rB) s (fun t =>
        RegEffect s t rD true (BitVec.ofInt 32 (a.toInt.tdiv b.toInt)) s.so false s.ca)) ∧
    Completes (.divwu rD rA rB) s (fun t =>
        RegEffect s t rD false (BitVec.ofNat 32 (a.toNat / b.toNat)) s.so s.ov s.ca) ∧
    Completes (.divwuRc rD rA rB) s (fun t =>
        RegEffect s t rD true (BitVec.ofNat 32 (a.toNat / b.toNat)) s.so s.ov s.ca) ∧
    Completes (.divwuo rD rA rB) s (fun t =>
        RegEffect s t rD false (BitVec.ofNat 32 (a.toNat / b.toNat)) s.so false s.ca) ∧
    Completes (.divwuoRc rD rA rB) s (fun t =>
        RegEffect s t rD true (BitVec.ofNat 32 (a.toNat / b.toNat)) s.so false s.ca)

/-- For a zero divisor all eight divides complete, whatever value they write: no register but rD changes, CA is
kept, the record forms set CR0 from the value written, the overflow-recording forms leave some OV and set SO exactly
if it was set or OV is, the others leave OV and SO, and pc advances. For -2^31 divided by -1 the four forms of divw
complete in the same way, and the overflow-recording ones set OV and SO. The value written is the free value of log
5 and the bit the free value of log 6: the statement holds for every value of them. (R231 (undefined division), R242
to R249, R134, R135) -/
def Obligations.UndefinedDivisionCompletes : Prop :=
  ∀ (rD rA rB : Reg) (s : State),
    let a := s.readGpr rA
    let b := s.readGpr rB
    (b = 0#32 →
      Completes (.divw rD rA rB) s (fun t => RegEffect s t rD false (t.readGpr rD) s.so s.ov s.ca) ∧
      Completes (.divwRc rD rA rB) s (fun t => RegEffect s t rD true (t.readGpr rD) s.so s.ov s.ca) ∧
      Completes (.divwo rD rA rB) s (fun t => RegEffect s t rD false (t.readGpr rD) (s.so || t.ov) t.ov s.ca) ∧
      Completes (.divwoRc rD rA rB) s (fun t => RegEffect s t rD true (t.readGpr rD) (s.so || t.ov) t.ov s.ca) ∧
      Completes (.divwu rD rA rB) s (fun t => RegEffect s t rD false (t.readGpr rD) s.so s.ov s.ca) ∧
      Completes (.divwuRc rD rA rB) s (fun t => RegEffect s t rD true (t.readGpr rD) s.so s.ov s.ca) ∧
      Completes (.divwuo rD rA rB) s (fun t => RegEffect s t rD false (t.readGpr rD) (s.so || t.ov) t.ov s.ca) ∧
      Completes (.divwuoRc rD rA rB) s (fun t => RegEffect s t rD true (t.readGpr rD) (s.so || t.ov) t.ov s.ca)) ∧
    (a = 0x80000000#32 → b = 0xFFFFFFFF#32 →
      Completes (.divw rD rA rB) s (fun t => RegEffect s t rD false (t.readGpr rD) s.so s.ov s.ca) ∧
      Completes (.divwRc rD rA rB) s (fun t => RegEffect s t rD true (t.readGpr rD) s.so s.ov s.ca) ∧
      Completes (.divwo rD rA rB) s (fun t => RegEffect s t rD false (t.readGpr rD) true true s.ca) ∧
      Completes (.divwoRc rD rA rB) s (fun t => RegEffect s t rD true (t.readGpr rD) true true s.ca))

/-- cmp and cmpi compare signed, cmpl and cmpli unsigned, the full 32-bit registers whatever L is, with the
immediate sign-extended or zero-extended. They complete in every state, write LT, GT, EQ and XER.SO to field crfD,
and change no other CR bit, no XER bit, no general or special register and no byte of memory; pc advances. That L is
ignored is the spec's decision D3, which the model follows (log 15). (R232 (compare pattern), R250 to R253, R124 (L
is ignored)) -/
def Obligations.CompareResults : Prop :=
  ∀ (crfD : CrField) (l : BitVec 1) (rA rB : Reg) (imm : BitVec 16) (s : State),
    let a := s.readGpr rA
    let b := s.readGpr rB
    let low : Nat := 28 - 4 * crfD.toNat
    let compared : Instr → Bool → Bool → Prop := fun i lt gt =>
      Completes i s fun t => t.cr.getLsbD (low + 3) = lt ∧ t.cr.getLsbD (low + 2) = gt ∧
        t.cr.getLsbD (low + 1) = (!lt && !gt) ∧ t.cr.getLsbD low = s.so ∧
        CrEffect s t (fun k => low ≤ k ∧ k < low + 4) ∧ t.xer = s.xer
    compared (.cmp crfD l rA rB) (decide (a.toInt < b.toInt)) (decide (b.toInt < a.toInt)) ∧
    compared (.cmpi crfD l rA imm) (decide (a.toInt < imm.toInt)) (decide (imm.toInt < a.toInt)) ∧
    compared (.cmpl crfD l rA rB) (decide (a.toNat < b.toNat)) (decide (b.toNat < a.toNat)) ∧
    compared (.cmpli crfD l rA imm) (decide (a.toNat < imm.toNat)) (decide (imm.toNat < a.toNat))

/-- and, andc, eqv, nand, nor, or, orc and xor, plain and record, complete in every state. Each bit of rA becomes
the mnemonic's Boolean function of the same bits of rS and rB as they were. The record forms set CR0 from the
result. XER is unchanged, and so is everything else; pc advances. (R260 (logical pattern), R261 to R276) -/
def Obligations.LogicalRegisterResults : Prop :=
  ∀ (rA rS rB : Reg) (s : State),
    let bitwise : Instr → (Bool → Bool → Bool) → Bool → Prop := fun i op rc =>
      ∃ v : Word, (∀ k, k < 32 → v.getLsbD k = op ((s.readGpr rS).getLsbD k) ((s.readGpr rB).getLsbD k)) ∧
        WordEffect i s rA v rc
    bitwise (.and rA rS rB) (fun x y => x && y) false ∧
    bitwise (.andRc rA rS rB) (fun x y => x && y) true ∧
    bitwise (.andc rA rS rB) (fun x y => x && !y) false ∧
    bitwise (.andcRc rA rS rB) (fun x y => x && !y) true ∧
    bitwise (.eqv rA rS rB) (fun x y => x == y) false ∧
    bitwise (.eqvRc rA rS rB) (fun x y => x == y) true ∧
    bitwise (.nand rA rS rB) (fun x y => !(x && y)) false ∧
    bitwise (.nandRc rA rS rB) (fun x y => !(x && y)) true ∧
    bitwise (.nor rA rS rB) (fun x y => !(x || y)) false ∧
    bitwise (.norRc rA rS rB) (fun x y => !(x || y)) true ∧
    bitwise (.or rA rS rB) (fun x y => x || y) false ∧
    bitwise (.orRc rA rS rB) (fun x y => x || y) true ∧
    bitwise (.orc rA rS rB) (fun x y => x || !y) false ∧
    bitwise (.orcRc rA rS rB) (fun x y => x || !y) true ∧
    bitwise (.xor rA rS rB) (fun x y => x != y) false ∧
    bitwise (.xorRc rA rS rB) (fun x y => x != y) true

/-- andi., ori and xori combine each bit of rS with the same bit of the immediate, zero-extended; andis., oris and
xoris with the immediate in the upper halfword. rA receives the result, andi. and andis. set CR0 from it, and
nothing else changes but pc. (R277 to R282, R109 (UIMM)) -/
def Obligations.LogicalImmediateResults : Prop :=
  ∀ (rA rS : Reg) (uimm : BitVec 16) (s : State),
    let bitwise : Instr → (Bool → Bool → Bool) → Bool → Bool → Prop := fun i op shifted rc =>
      ∃ v : Word, (∀ k, k < 32 → v.getLsbD k = op ((s.readGpr rS).getLsbD k)
          (if shifted then decide (16 ≤ k) && uimm.getLsbD (k - 16) else uimm.getLsbD k)) ∧
        WordEffect i s rA v rc
    bitwise (.andiRc rA rS uimm) (fun x y => x && y) false true ∧
    bitwise (.andisRc rA rS uimm) (fun x y => x && y) true true ∧
    bitwise (.ori rA rS uimm) (fun x y => x || y) false false ∧
    bitwise (.oris rA rS uimm) (fun x y => x || y) true false ∧
    bitwise (.xori rA rS uimm) (fun x y => x != y) false false ∧
    bitwise (.xoris rA rS uimm) (fun x y => x != y) true false

/-- extsb writes the low byte of rS read as a signed number, extsh the low halfword. cntlzw writes the number n, 0
to 32, of leading zeros: the n highest bits are 0 and, if n is below 32, the next one is 1. The record forms set CR0
from the result; XER and everything else but rA and pc are unchanged. (R283 to R288, R139 (CLZ32)) -/
def Obligations.ExtendAndCountResults : Prop :=
  ∀ (rA rS : Reg) (s : State),
    let v := s.readGpr rS
    WordEffect (.extsb rA rS) s rA (BitVec.ofInt 32 (if v.toNat % 256 < 128 then v.toNat % 256 else (v.toNat % 256 : Int) - 256)) false ∧
    WordEffect (.extsbRc rA rS) s rA (BitVec.ofInt 32 (if v.toNat % 256 < 128 then v.toNat % 256 else (v.toNat % 256 : Int) - 256)) true ∧
    WordEffect (.extsh rA rS) s rA
      (BitVec.ofInt 32 (if v.toNat % 65536 < 32768 then v.toNat % 65536 else (v.toNat % 65536 : Int) - 65536)) false ∧
    WordEffect (.extshRc rA rS) s rA
      (BitVec.ofInt 32 (if v.toNat % 65536 < 32768 then v.toNat % 65536 else (v.toNat % 65536 : Int) - 65536)) true ∧
    (∃ n : Nat, n ≤ 32 ∧ (∀ j, j < n → v.getLsbD (31 - j) = false) ∧ (n < 32 → v.getLsbD (31 - n) = true) ∧
      WordEffect (.cntlzw rA rS) s rA (BitVec.ofNat 32 n) false) ∧
    (∃ n : Nat, n ≤ 32 ∧ (∀ j, j < n → v.getLsbD (31 - j) = false) ∧ (n < 32 → v.getLsbD (31 - n) = true) ∧
      WordEffect (.cntlzwRc rA rS) s rA (BitVec.ofNat 32 n) true)

/-- Built from a rotate and a mask, slw and srw shift rS left or right by rB modulo 64, filling with zeros, so that
32 to 63 give 0. They complete in every state; the record forms set CR0; XER and everything else but rA and pc are
unchanged. (R295, R296 to R299) -/
def Obligations.LogicalShiftResults : Prop :=
  ∀ (rA rS rB : Reg) (s : State),
    let v := s.readGpr rS
    let n : Nat := (s.readGpr rB).toNat % 64
    WordEffect (.slw rA rS rB) s rA (v <<< n) false ∧
    WordEffect (.slwRc rA rS rB) s rA (v <<< n) true ∧
    WordEffect (.srw rA rS rB) s rA (v >>> n) false ∧
    WordEffect (.srwRc rA rS rB) s rA (v >>> n) true

/-- sraw shifts rS right by rB modulo 64, srawi by SH, with copies of the sign. CA is always written: set exactly
when rS is negative and some bit shifted out is 1, which for 32 to 63 is the sign itself. SO and OV are kept, the
record forms set CR0 from the result, and nothing else changes but rA and pc. (R300 to R303) -/
def Obligations.AlgebraicShiftResults : Prop :=
  ∀ (rA rS rB : Reg) (sh : BitVec 5) (s : State),
    let v := s.readGpr rS
    let shifted : Instr → Nat → Bool → Prop := fun i n rc =>
      Completes i s fun t =>
        RegEffect s t rA rc (v.sshiftRight n) s.so s.ov (decide (v.toInt < 0) && decide (v.toNat % 2 ^ n ≠ 0))
    shifted (.sraw rA rS rB) ((s.readGpr rB).toNat % 64) false ∧
    shifted (.srawRc rA rS rB) ((s.readGpr rB).toNat % 64) true ∧
    shifted (.srawi rA rS sh) (sh.toNat) false ∧
    shifted (.srawiRc rA rS sh) (sh.toNat) true

/-- For every rotate amount and every pair of mask bounds, wrapping ones included: a bit of rA whose MSB-first
number i lies in the mask (MB <= i <= ME, or i >= MB or i <= ME when MB > ME) receives the bit of rS rotated left
onto it, by SH or by rB modulo 32; outside the mask it becomes 0, and with rlwimi it keeps the old bit of rA. The
record forms set CR0; XER and everything else but rA and pc are unchanged. (R304 to R309, R136 (ROTL32), R137
(MASK)) -/
def Obligations.RotateAndMaskResults : Prop :=
  ∀ (rA rS rB : Reg) (n mb me : BitVec 5) (s : State),
    let inMask : Nat → Bool := fun k =>
      if mb.toNat ≤ me.toNat then decide (mb.toNat ≤ 31 - k ∧ 31 - k ≤ me.toNat)
      else decide (mb.toNat ≤ 31 - k ∨ 31 - k ≤ me.toNat)
    let rotated : Instr → Nat → (Nat → Bool) → Bool → Prop := fun i amount outside rc =>
      ∃ v : Word, (∀ k, k < 32 → v.getLsbD k =
          if inMask k then (s.readGpr rS).getLsbD ((k + 32 - amount) % 32) else outside k) ∧
        WordEffect i s rA v rc
    rotated (.rlwinm rA rS n mb me) (n.toNat) (fun _ => false) false ∧
    rotated (.rlwinmRc rA rS n mb me) (n.toNat) (fun _ => false) true ∧
    rotated (.rlwnm rA rS rB mb me) ((s.readGpr rB).toNat % 32) (fun _ => false) false ∧
    rotated (.rlwnmRc rA rS rB mb me) ((s.readGpr rB).toNat % 32) (fun _ => false) true ∧
    rotated (.rlwimi rA rS n mb me) (n.toNat) (fun k => (s.readGpr rA).getLsbD k) false ∧
    rotated (.rlwimiRc rA rS n mb me) (n.toNat) (fun k => (s.readGpr rA).getLsbD k) true

/-- For every start and end: bit 31 - i of the mask is 1 exactly when start <= i <= end, or, when start > end, when
i >= start or i <= end. When start > end + 1 it is the complement of the inner mask end + 1 to start - 1, when start
= end + 1 it is all ones, and it is never all zero. The seven values R137 lists are as listed. (R137) -/
def Obligations.MaskGenerator : Prop :=
  (∀ start stop : BitVec 5,
      (∀ i, i < 32 → (mask start stop).getLsbD (31 - i) =
        if start.toNat ≤ stop.toNat then decide (start.toNat ≤ i ∧ i ≤ stop.toNat)
        else decide (start.toNat ≤ i ∨ i ≤ stop.toNat)) ∧
      (stop.toNat + 1 < start.toNat → mask start stop = ~~~mask (stop + 1#5) (start - 1#5)) ∧
      (start.toNat = stop.toNat + 1 → mask start stop = 0xFFFFFFFF#32) ∧
      mask start stop ≠ 0#32) ∧
    mask 0#5 31#5 = 0xFFFFFFFF#32 ∧ mask 0#5 0#5 = 0x80000000#32 ∧ mask 31#5 31#5 = 0x00000001#32 ∧
    mask 24#5 31#5 = 0x000000FF#32 ∧ mask 3#5 4#5 = 0x18000000#32 ∧ mask 5#5 2#5 = 0xE7FFFFFF#32 ∧
    mask 31#5 0#5 = 0x80000001#32

/-- For every word and every amount 0 to 31, bit i of the word becomes bit (i + n) mod 32 of the result, rotating by
0 is the identity, and rotating by n and then by 32 - n (mod 32) gives the word back. (R136) -/
def Obligations.RotateLeft : Prop :=
  ∀ (v : Word) (n : BitVec 5),
    (∀ i, i < 32 → (rotl32 v n).getLsbD ((i + n.toNat) % 32) = v.getLsbD i) ∧ rotl32 v 0#5 = v ∧
      rotl32 (rotl32 v n) (0#5 - n) = v

/-- For every state and every three addends, CAADD leaves CA set exactly when their unsigned sum exceeds 0xFFFFFFFF,
and cleared otherwise; every other bit of XER and everything else of the state is unchanged. With the addends NOT a,
b and 1, CA is set exactly when b >= a unsigned. (R132) -/
def Obligations.CarryDetector : Prop :=
  ∀ (s : State) (s1 s2 s3 : Word),
    (((s.caAdd s1 s2 s3).ca = true ↔ 0xFFFFFFFF < s1.toNat + s2.toNat + s3.toNat) ∧
      (∀ k, k < 32 → k ≠ 29 → (s.caAdd s1 s2 s3).xer.getLsbD k = s.xer.getLsbD k) ∧
      { s.caAdd s1 s2 s3 with xer := s.xer } = s) ∧
    ((s.caAdd (~~~s1) s2 1#32).ca = true ↔ s1.toNat ≤ s2.toNat)

/-- For every state and every three addends with result their sum modulo 2^32, OVADD leaves OV set exactly when the
exact signed sum differs from the result read as signed, equivalently when it is outside -2^31 to 2^31 - 1; SO is
set with OV and otherwise keeps its value; no other XER bit and nothing else of the state changes. With NOT a, b and
1 the test is the signed overflow of b - a. (R131) -/
def Obligations.OverflowDetector : Prop :=
  ∀ (s : State) (s1 s2 s3 : Word),
    let result := s1 + s2 + s3
    let t := s.ovAdd result s1 s2 s3
    (t.ov = true ↔ s1.toInt + s2.toInt + s3.toInt ≠ result.toInt) ∧
    (t.ov = true ↔ s1.toInt + s2.toInt + s3.toInt < -2147483648 ∨ 2147483647 < s1.toInt + s2.toInt + s3.toInt) ∧
    t.so = (s.so || t.ov) ∧
    (∀ k, k < 30 → t.xer.getLsbD k = s.xer.getLsbD k) ∧ { t with xer := s.xer } = s ∧
    ((s.ovAdd (~~~s1 + s2 + 1#32) (~~~s1) s2 1#32).ov = true ↔
      s2.toInt - s1.toInt < -2147483648 ∨ 2147483647 < s2.toInt - s1.toInt)

/-- For every state and every 32-bit result, CR0UPDATE leaves CR[31] set exactly when the result is negative, CR[30]
when it is positive, CR[29] when it is zero, so exactly one of them is set; CR[28] is XER.SO at the moment of the
call; CR bits 27 to 0, and everything else of the state, are unchanged. (R130) -/
def Obligations.Cr0Update : Prop :=
  ∀ (s : State) (result : Word),
    let t := s.cr0Update result
    (t.cr.getLsbD 31 = true ↔ result.toInt < 0) ∧ (t.cr.getLsbD 30 = true ↔ 0 < result.toInt) ∧
    (t.cr.getLsbD 29 = true ↔ result = 0#32) ∧ t.cr.getLsbD 28 = s.so ∧
    (t.cr.getLsbD 31).toNat + (t.cr.getLsbD 30).toNat + (t.cr.getLsbD 29).toNat = 1 ∧
    (∀ k, k < 28 → t.cr.getLsbD k = s.cr.getLsbD k) ∧ { t with cr := s.cr } = s

/-- For every state: CRF(n) is CR bits 31-4n to 28-4n, a field written by CRF_WRITE reads back and every other field
and the rest of the state are unchanged; CRBIT(i) is CR[31-i], a bit written by CRBIT_WRITE reads back and every
other CR bit and the rest of the state are unchanged; bit i is bit 3 - (i mod 4) of field i div 4. (R141) -/
def Obligations.CrAccessors : Prop :=
  ∀ (s : State) (n m : CrField) (v : BitVec 4) (i j : CrBit) (b : Bool),
    (∀ k, k < 4 → (s.crField n).getLsbD k = s.cr.getLsbD (28 - 4 * n.toNat + k)) ∧
    (s.writeCrField n v).crField m = (if m = n then v else s.crField m) ∧
    { s.writeCrField n v with cr := s.cr } = s ∧
    s.crBit i = s.cr.getLsbD (31 - i.toNat) ∧
    (s.writeCrBit i b).crBit j = (if j = i then b else s.crBit j) ∧
    { s.writeCrBit i b with cr := s.cr } = s ∧
    s.crBit i = (s.crField (BitVec.ofNat 3 (i.toNat / 4))).getLsbD (3 - i.toNat % 4)

/-- crand, crandc, creqv, crnand, crnor, cror, crorc and crxor complete in every state and for every choice of bits,
equal ones included. The CR bit with MSB-first number crbD becomes the mnemonic's function of the bits crbA and crbB
as they were; all 31 other CR bits, XER, every general and special register and every byte of memory are unchanged;
pc advances. (R315 (CR logical pattern), R316 to R323) -/
def Obligations.CrLogicalResults : Prop :=
  ∀ (crbD crbA crbB : CrBit) (s : State),
    let combined : Instr → (Bool → Bool → Bool) → Prop := fun i op =>
      Completes i s fun t =>
        t.cr.getLsbD (31 - crbD.toNat) =
          op (s.cr.getLsbD (31 - crbA.toNat)) (s.cr.getLsbD (31 - crbB.toNat)) ∧
        CrEffect s t (fun k => k = 31 - crbD.toNat) ∧ t.xer = s.xer
    combined (.crand crbD crbA crbB) (fun a b => a && b) ∧
    combined (.crandc crbD crbA crbB) (fun a b => a && !b) ∧
    combined (.creqv crbD crbA crbB) (fun a b => a == b) ∧
    combined (.crnand crbD crbA crbB) (fun a b => !(a && b)) ∧
    combined (.crnor crbD crbA crbB) (fun a b => !(a || b)) ∧
    combined (.cror crbD crbA crbB) (fun a b => a || b) ∧
    combined (.crorc crbD crbA crbB) (fun a b => a || !b) ∧
    combined (.crxor crbD crbA crbB) (fun a b => a != b)

/-- mcrf copies the four bits of field crfS to field crfD. mfcr copies all of CR to rD. mtcrf replaces exactly the
CR fields its mask selects, the most significant mask bit selecting field 0, by those of rS. mcrxr copies XER bits
31 to 28 to field crfD and clears SO, OV and CA, keeping XER bits 28 to 0. Each completes in every state, advances
pc and changes nothing else. (R324 (mcrf), R388 (mfcr), R389 (mtcrf), R390 (mcrxr), R114 (CRM)) -/
def Obligations.CrMoveResults : Prop :=
  ∀ (crfD crfS : CrField) (rD rS : Reg) (crm : BitVec 8) (s : State),
    let low : Nat := 28 - 4 * crfD.toNat
    Completes (.mcrf crfD crfS) s (fun t =>
      (∀ k, k < 4 → t.cr.getLsbD (low + k) = s.cr.getLsbD (28 - 4 * crfS.toNat + k)) ∧
      CrEffect s t (fun k => low ≤ k ∧ k < low + 4) ∧ t.xer = s.xer) ∧
    WordEffect (.mfcr rD) s rD s.cr false ∧
    Completes (.mtcrf crm rS) s (fun t =>
      (∀ k, k < 32 → crm.getLsbD (k / 4) = true → t.cr.getLsbD k = (s.readGpr rS).getLsbD k) ∧
      CrEffect s t (fun k => crm.getLsbD (k / 4) = true) ∧ t.xer = s.xer) ∧
    Completes (.mcrxr crfD) s (fun t =>
      (∀ k, k < 4 → t.cr.getLsbD (low + k) = s.xer.getLsbD (28 + k)) ∧
      CrEffect s t (fun k => low ≤ k ∧ k < low + 4) ∧ XerBecomes s t false false false)

/-- For each of the numbers 8 (LR), 9 (CTR), 256 (USPRG0), 260 to 263 (SPRG4 to SPRG7): mfspr completes and copies
the register to rD; mtspr completes and replaces all 32 bits of that register by rS. CR, XER, every other register,
FATAL and every byte of memory are unchanged; pc advances. (R32 (SPR_MAP), R386 (mfspr), R387 (mtspr)) -/
def Obligations.SprMoveResults : Prop :=
  ∀ (r : Reg) (n : Nat) (s : State), n ∈ [8, 9, 256, 260, 261, 262, 263] →
    let v := s.readGpr r
    WordEffect (.mfspr r n) s r
      (if n = 8 then s.lr else if n = 9 then s.ctr else if n = 256 then s.usprg0 else if n = 260 then s.sprg4
        else if n = 261 then s.sprg5 else if n = 262 then s.sprg6 else s.sprg7) false ∧
    Completes (.mtspr n r) s (fun t =>
      t.lr = (if n = 8 then v else s.lr) ∧ t.ctr = (if n = 9 then v else s.ctr) ∧
      t.usprg0 = (if n = 256 then v else s.usprg0) ∧ t.sprg4 = (if n = 260 then v else s.sprg4) ∧
      t.sprg5 = (if n = 261 then v else s.sprg5) ∧ t.sprg6 = (if n = 262 then v else s.sprg6) ∧
      t.sprg7 = (if n = 263 then v else s.sprg7) ∧ t.fatal = s.fatal ∧ GprsKept s t NoGpr ∧ t.cr = s.cr ∧
      t.xer = s.xer ∧ Advances s t ∧ MemSame s t)

/-- For every number that is none of 8, 9, 256, 260, 261, 262, 263, XER's number 1 included, mfspr and mtspr answer
the state with FATAL = SPR and nothing else changed: no register is written and pc stays at the instruction. That
the stop is a next state is the model's reading (log 9). (R32 (SPR_MAP), R385, R402 (FATAL_STOP)) -/
def Obligations.UnmappedSprHalts : Prop :=
  ∀ (r : Reg) (n : Nat) (s : State), n ∉ [8, 9, 256, 260, 261, 262, 263] →
    Completes (.mfspr r n) s (fun t => FatalStopped s t .spr) ∧
    Completes (.mtspr n r) s (fun t => FatalStopped s t .spr)

/-- sc completes in every state with pc advanced by 4 and nothing else changed. The output SYSCALL_EVENT is raised
by a state exactly when the core is running, pc is a multiple of 4 and the word at pc decodes to sc. That the event
is a function of the state is the model's choice (log 10). (R391 (sc), R410 (SYSCALL_EVENT)) -/
def Obligations.SystemCallOnlySignals : Prop :=
  ∀ s : State,
    Completes .sc s (fun t => t = { s with pc := s.pc + 4#32 }) ∧
    (s.syscallEvent = true ↔ s.fatal = none ∧ s.pc.toNat % 4 = 0 ∧ decodeWord s.fetch = .ok .sc)

/-- Modulo 2^32: the D-form address is rA plus the signed displacement, or the displacement alone when rA is
register number 0; the indexed address is rA plus rB, or rB alone when rA is number 0; the indexed-update address is
always rA plus rB. Register number 0 as rB means the content of r0. The test is on the number, so r0's content never
enters as a base in the first two. (R330 (effective address), R110 (D), R21 (register 0)) -/
def Obligations.EffectiveAddresses : Prop :=
  ∀ (s : State) (rA rB : Reg) (d : BitVec 16),
    s.eaD rA d = BitVec.ofInt 32 ((if rA.toNat = 0 then 0 else ((s.readGpr rA).toNat : Int)) + d.toInt) ∧
    s.eaX rA rB = BitVec.ofNat 32 ((if rA.toNat = 0 then 0 else (s.readGpr rA).toNat) + (s.readGpr rB).toNat) ∧
    s.eaUX rA rB = BitVec.ofNat 32 ((s.readGpr rA).toNat + (s.readGpr rB).toNat)

/-- For every memory and every two addresses: after setbyte at an implemented address that byte reads as written and
every other byte reads as before; outside the implemented range a read gives 0 and a write changes nothing at all.
The implemented addresses are those from MEM_BASE up to but not including MEM_BASE + MEM_SIZE. (R66 (addresses
outside the implemented memory), R62, R63, R70) -/
def Obligations.ByteWriteThenRead : Prop :=
  ∀ (m : Memory) (a x : Word) (b : Byte),
    (m.writeByte a b).readByte x = (if x = a ∧ m.implements a = true then b else m.readByte x) ∧
    (m.implements a = true ↔ m.base ≤ a.toNat ∧ a.toNat < m.base + m.size) ∧
    (m.implements a = false → m.readByte a = 0#8 ∧ m.writeByte a b = m)

/-- In a memory that implements the four bytes at A, at any alignment and wrapping at the top: a word stored at A
reads back as that word, its most significant byte at A and its least at A + 3, its halves at A and A + 2; the byte-
reversed word read gives the byte swap; storing reversed and reading plainly gives the byte swap; a halfword stored
plainly reads back, and reversed reads as the swap. (R61 (byte order), R62, R63, R68, R64 (wrap)) -/
def Obligations.MixedWidthAccesses : Prop :=
  ∀ (m : Memory) (a v : Word), (∀ x, InAccess a 4 x → m.implements x = true) →
    (m.writeWord a v).readWord a = v ∧
    (∀ j, j < 4 → (m.writeWord a v).readByte (a + BitVec.ofNat 32 j) = BitVec.ofNat 8 (v.toNat / 256 ^ (3 - j))) ∧
    (m.writeWord a v).readHalf a = BitVec.ofNat 16 (v.toNat / 65536) ∧
    (m.writeWord a v).readHalf (a + 2#32) = BitVec.ofNat 16 v.toNat ∧
    (m.writeWordRev a v).readWordRev a = v ∧
    (m.writeWord a v).readWordRev a = (m.writeWordRev a v).readWord a ∧
    (∀ j, j < 4 → (m.writeWordRev a v).readByte (a + BitVec.ofNat 32 j) = BitVec.ofNat 8 (v.toNat / 256 ^ j)) ∧
    (m.writeHalf a v).readHalf a = BitVec.ofNat 16 v.toNat ∧
    (m.writeHalfRev a v).readHalfRev a = BitVec.ofNat 16 v.toNat ∧
    (m.writeHalfRev a v).readByte a = BitVec.ofNat 8 v.toNat ∧
    (m.writeHalfRev a v).readByte (a + 1#32) = BitVec.ofNat 8 (v.toNat / 256)

/-- lbz, lhz, lha, lwz, in displacement and indexed form, and lhbrx, lwbrx complete in every state, at any
alignment, whether or not the bytes are implemented. rD receives the bytes at the address (that of
EffectiveAddresses) and the following ones modulo 2^32, big-endian, or little-endian for the reversed forms, zero-
extended, or sign-extended for lha. No other register, no flag and no byte of memory changes; pc advances. (R330,
R333 to R350 (forms without update), R62 (MemRead), R65, R68) -/
def Obligations.LoadResults : Prop :=
  ∀ (rD rA rB : Reg) (d : BitVec 16) (s : State),
    let ea := s.eaD rA d
    let eax := s.eaX rA rB
    let m : Word → Nat := fun x => (s.mem.readByte x).toNat
    let byteAt : Word → Word := fun e => BitVec.ofNat 32 (m e)
    let halfAt : Word → Word := fun e => BitVec.ofNat 32 (256 * m e + m (e + 1#32))
    let signedHalfAt : Word → Word := fun e =>
      BitVec.ofInt 32 (if m e < 128 then 256 * m e + m (e + 1#32) else 256 * (m e : Int) + m (e + 1#32) - 65536)
    let wordAt : Word → Word := fun e =>
      BitVec.ofNat 32 (16777216 * m e + 65536 * m (e + 1#32) + 256 * m (e + 2#32) + m (e + 3#32))
    let loaded : Instr → Word → Prop := fun i v =>
      Completes i s fun t => t.readGpr rD = v ∧ LoadFrame s t (· = rD)
    loaded (.lbz rD rA d) (byteAt ea) ∧
    loaded (.lbzx rD rA rB) (byteAt eax) ∧
    loaded (.lhz rD rA d) (halfAt ea) ∧
    loaded (.lhzx rD rA rB) (halfAt eax) ∧
    loaded (.lha rD rA d) (signedHalfAt ea) ∧
    loaded (.lhax rD rA rB) (signedHalfAt eax) ∧
    loaded (.lwz rD rA d) (wordAt ea) ∧
    loaded (.lwzx rD rA rB) (wordAt eax) ∧
    loaded (.lhbrx rD rA rB) (BitVec.ofNat 32 (m eax + 256 * m (eax + 1#32))) ∧
    loaded (.lwbrx rD rA rB)
      (BitVec.ofNat 32 (m eax + 256 * m (eax + 1#32) + 65536 * m (eax + 2#32) + 16777216 * m (eax + 3#32)))

/-- lbzu, lhzu, lhau, lwzu and their indexed forms complete in every state, rA = 0 and rA = rD included. rA receives
the effective address; rD, if it is another register, receives the loaded value. The indexed forms add the real r0
when rA is number 0. No other register, no flag and no byte of memory changes; pc advances. That the forms with rA =
0 and with rA = rD run, the address staying in rA, is the model's choice among those of U7 (log 13). (R330, R331
(update forms), R335 to R348 (update forms), R62) -/
def Obligations.LoadUpdateResults : Prop :=
  ∀ (rD rA rB : Reg) (d : BitVec 16) (s : State),
    let ea := s.eaD rA d
    let eaux := s.eaUX rA rB
    let m : Word → Nat := fun x => (s.mem.readByte x).toNat
    let byteAt : Word → Word := fun e => BitVec.ofNat 32 (m e)
    let halfAt : Word → Word := fun e => BitVec.ofNat 32 (256 * m e + m (e + 1#32))
    let signedHalfAt : Word → Word := fun e =>
      BitVec.ofInt 32 (if m e < 128 then 256 * m e + m (e + 1#32) else 256 * (m e : Int) + m (e + 1#32) - 65536)
    let wordAt : Word → Word := fun e =>
      BitVec.ofNat 32 (16777216 * m e + 65536 * m (e + 1#32) + 256 * m (e + 2#32) + m (e + 3#32))
    let loaded : Instr → Word → Word → Prop := fun i e v =>
      Completes i s fun t => t.readGpr rA = e ∧ (rD ≠ rA → t.readGpr rD = v) ∧
        LoadFrame s t (fun r => r = rD ∨ r = rA)
    loaded (.lbzu rD rA d) ea (byteAt ea) ∧
    loaded (.lbzux rD rA rB) eaux (byteAt eaux) ∧
    loaded (.lhzu rD rA d) ea (halfAt ea) ∧
    loaded (.lhzux rD rA rB) eaux (halfAt eaux) ∧
    loaded (.lhau rD rA d) ea (signedHalfAt ea) ∧
    loaded (.lhaux rD rA rB) eaux (signedHalfAt eaux) ∧
    loaded (.lwzu rD rA d) ea (wordAt ea) ∧
    loaded (.lwzux rD rA rB) eaux (wordAt eaux)

/-- lmw completes in every state. For each register from rD to 31, the k-th receives the big-endian word at the
effective address plus 4k, the address computed once from the old base, also when the base is among the loaded
registers. Registers below rD, the flags and every byte of memory are unchanged; pc advances. That the form whose
base is loaded runs is the model's choice among those of U7 (log 13). (R351 (lmw), R330) -/
def Obligations.LoadMultipleResult : Prop :=
  ∀ (rD rA : Reg) (d : BitVec 16) (s : State),
    let ea := s.eaD rA d
    Completes (.lmw rD rA d) s fun t =>
      (∀ k : Nat, rD.toNat + k < 32 →
        t.readGpr (rD + BitVec.ofNat 5 k) = s.mem.readWord (ea + BitVec.ofNat 32 (4 * k))) ∧
      LoadFrame s t (fun r => rD.toNat ≤ r.toNat)

/-- For lswi with a byte count of 1 to 32, and lswx with the byte count in XER.TBC, 0 to 127: the k-th register from
rD on, the number wrapping from 31 to 0, receives bytes 4k to 4k + 3 of the string, most significant first, with
zero bytes after the end of the string; it keeps its value if the string does not reach it, or if it is the base
register by number and is not the last register of the string. CR, XER, the special registers and memory are
unchanged; pc advances. That the forms whose range includes rA or rB run is the model's choice among those of U7
(log 13). (R332 (string transfer), R352 (lswi), R353 (lswx)) -/
def Obligations.StringLoadResults : Prop :=
  ∀ (rD rA rB : Reg) (n : Nat) (s : State),
    let loaded : Instr → Word → Nat → Prop := fun i ea n =>
      Completes i s fun t =>
        (∀ k, k < 32 →
          let r := rD + BitVec.ofNat 5 k
          if 4 * k < n ∧ ¬ (r = rA ∧ 4 * k + 4 < n) then
            ∀ j, j < 4 → byteOf (t.readGpr r) j =
              if 4 * k + j < n then s.mem.readByte (ea + BitVec.ofNat 32 (4 * k + j)) else 0#8
          else t.readGpr r = s.readGpr r) ∧
        LoadFrame s t (fun _ => True)
    (1 ≤ n → n ≤ 32 → loaded (.lswi rD rA n) (s.readBase rA) n) ∧
    loaded (.lswx rD rA rB) (s.eaX rA rB) (s.xer.toNat % 128)

/-- stb, sth, stw, in displacement and indexed form, and sthbrx, stwbrx complete in every state. With the effective
address the instruction computes, byte j of the access (at the address plus j, modulo 2^32) reads afterwards as the
corresponding byte of rS, most significant first, or least significant first for the reversed forms, if it is
implemented. Every byte outside the access, every register and every flag is unchanged; pc advances. (R360 (store
pattern), R361 to R374 (forms without update), R330, R63 (MemWrite), R68) -/
def Obligations.StoreResults : Prop :=
  ∀ (rS rA rB : Reg) (d : BitVec 16) (s : State),
    let ea := s.eaD rA d
    let eax := s.eaX rA rB
    let v : Nat := (s.readGpr rS).toNat
    let stored : Instr → Word → Nat → (Nat → Nat) → Prop := fun i e n byte =>
      Completes i s fun t =>
        (∀ j, j < n → s.mem.implements (e + BitVec.ofNat 32 j) = true →
          t.mem.readByte (e + BitVec.ofNat 32 j) = BitVec.ofNat 8 (byte j)) ∧
        StoreFrame s t NoGpr (InAccess e n)
    stored (.stb rS rA d) ea 1 (fun j => v / 256 ^ (0 - j)) ∧
    stored (.stbx rS rA rB) eax 1 (fun j => v / 256 ^ (0 - j)) ∧
    stored (.sth rS rA d) ea 2 (fun j => v / 256 ^ (1 - j)) ∧
    stored (.sthx rS rA rB) eax 2 (fun j => v / 256 ^ (1 - j)) ∧
    stored (.stw rS rA d) ea 4 (fun j => v / 256 ^ (3 - j)) ∧
    stored (.stwx rS rA rB) eax 4 (fun j => v / 256 ^ (3 - j)) ∧
    stored (.sthbrx rS rA rB) eax 2 (fun j => v / 256 ^ j) ∧
    stored (.stwbrx rS rA rB) eax 4 (fun j => v / 256 ^ j)

/-- stbu, sthu, stwu and their indexed forms complete in every state, rA = 0 and rS = rA included. The bytes of the
old rS are stored at the effective address, most significant first, where implemented; then rA receives the address.
Every byte outside the access, every other register and every flag is unchanged; pc advances. That the form with rA
= 0 runs is the model's choice among those of U7 (log 13). (R360, R363 to R372 (update forms), R331 (update forms),
R63) -/
def Obligations.StoreUpdateResults : Prop :=
  ∀ (rS rA rB : Reg) (d : BitVec 16) (s : State),
    let ea := s.eaD rA d
    let eaux := s.eaUX rA rB
    let v : Nat := (s.readGpr rS).toNat
    let stored : Instr → Word → Nat → (Nat → Nat) → Prop := fun i e n byte =>
      Completes i s fun t =>
        (∀ j, j < n → s.mem.implements (e + BitVec.ofNat 32 j) = true →
          t.mem.readByte (e + BitVec.ofNat 32 j) = BitVec.ofNat 8 (byte j)) ∧
        t.readGpr rA = e ∧ StoreFrame s t (· = rA) (InAccess e n)
    stored (.stbu rS rA d) ea 1 (fun j => v / 256 ^ (0 - j)) ∧
    stored (.stbux rS rA rB) eaux 1 (fun j => v / 256 ^ (0 - j)) ∧
    stored (.sthu rS rA d) ea 2 (fun j => v / 256 ^ (1 - j)) ∧
    stored (.sthux rS rA rB) eaux 2 (fun j => v / 256 ^ (1 - j)) ∧
    stored (.stwu rS rA d) ea 4 (fun j => v / 256 ^ (3 - j)) ∧
    stored (.stwux rS rA rB) eaux 4 (fun j => v / 256 ^ (3 - j))

/-- stmw completes in every state. For each register from rS to 31, the k-th is stored big-endian at the effective
address plus 4k, in each byte that is implemented. Every byte outside those words, every register and every flag is
unchanged; pc advances. (R375 (stmw), R63) -/
def Obligations.StoreMultipleResult : Prop :=
  ∀ (rS rA : Reg) (d : BitVec 16) (s : State),
    let ea := s.eaD rA d
    Completes (.stmw rS rA d) s fun t =>
      (∀ k j : Nat, rS.toNat + k < 32 → j < 4 →
        s.mem.implements (ea + BitVec.ofNat 32 (4 * k + j)) = true →
        t.mem.readByte (ea + BitVec.ofNat 32 (4 * k + j)) =
          BitVec.ofNat 8 ((s.readGpr (rS + BitVec.ofNat 5 k)).toNat / 256 ^ (3 - j))) ∧
      StoreFrame s t NoGpr (InAccess ea (4 * (32 - rS.toNat)))

/-- For stswi with a byte count of 1 to 32, and stswx with the byte count in XER.TBC, 0 to 127: byte j of the
string, at the effective address plus j, receives byte j mod 4, most significant first, of the register j div 4
after rS, the number wrapping from 31 to 0, if it is implemented, unless that register is the base register by
number and not the last register of the string. Every other byte, every register and every flag is unchanged; pc
advances. That the base register's bytes are skipped is the spec's decision D18, which the model follows (log 14).
(R332 (string transfer), R376 (stswi), R377 (stswx)) -/
def Obligations.StringStoreResults : Prop :=
  ∀ (rS rA rB : Reg) (n : Nat) (s : State),
    let stored : Instr → Word → Nat → Prop := fun i ea n =>
      let source : Nat → Reg := fun j => rS + BitVec.ofNat 5 (j / 4)
      let skipped : Nat → Prop := fun j => source j = rA ∧ 4 * (j / 4) + 4 < n
      Completes i s fun t =>
        (∀ j, j < n → ¬ skipped j → s.mem.implements (ea + BitVec.ofNat 32 j) = true →
          t.mem.readByte (ea + BitVec.ofNat 32 j) =
            BitVec.ofNat 8 ((s.readGpr (source j)).toNat / 256 ^ (3 - j % 4))) ∧
        StoreFrame s t NoGpr (fun a => ∃ j, j < n ∧ ¬ skipped j ∧ a = ea + BitVec.ofNat 32 j)
    (1 ≤ n → n ≤ 32 → stored (.stswi rS rA n) (s.readBase rA) n) ∧
    stored (.stswx rS rA rB) (s.eaX rA rB) (s.xer.toNat % 128)

/-- reg_read gives GPR[i] at index i below 32, pc at 96, CR at 98, LR at 99, CTR at 100, XER at 101 and 0 at every
other index. A reg_write reads back at a mapped index and is the identity on the state at an unmapped one; the other
indices read as before; USPRG0, SPRG4 to SPRG7, FATAL and memory are never touched. nRegs is 104, every mapped index
is below it, and an index from it on reads 0 and ignores writes. That the port is a set of functions outside the
step, and works on a halted core, is the model's choice (log 16). (R39 (debug register index map), R38 (nRegs,
unmapped indices), R412 (debug operations)) -/
def Obligations.DebugRegisterPort : Prop :=
  ∀ (s : State) (i j : Nat) (v : Word),
    let mapped : Nat → Prop := fun k => k < 32 ∨ k = 96 ∨ k = 98 ∨ k = 99 ∨ k = 100 ∨ k = 101
    (∀ x : Reg, s.regRead x.toNat = s.readGpr x) ∧ s.regRead 96 = s.pc ∧ s.regRead 98 = s.cr ∧ s.regRead 99 = s.lr ∧
    s.regRead 100 = s.ctr ∧ s.regRead 101 = s.xer ∧ (¬ mapped i → s.regRead i = 0#32 ∧ s.regWrite i v = s) ∧
    (mapped i → (s.regWrite i v).regRead i = v) ∧ (i ≠ j → (s.regWrite i v).regRead j = s.regRead j) ∧
    (let t := s.regWrite i v
     t.usprg0 = s.usprg0 ∧ t.sprg4 = s.sprg4 ∧ t.sprg5 = s.sprg5 ∧ t.sprg6 = s.sprg6 ∧ t.sprg7 = s.sprg7 ∧
      t.fatal = s.fatal ∧ t.mem = s.mem) ∧
    nRegs = 104 ∧ (mapped i → i < nRegs) ∧ (nRegs ≤ i → s.regRead i = 0#32 ∧ s.regWrite i v = s)

/-- mem_read gives the byte at the address; mem_write replaces that byte if it is implemented, leaves every other
byte and every register as they were, and keeps the memory in canonical form; the host's return from a system call,
reg_write(96, reg_read(99)), sets pc to LR and changes nothing else. The canonical form is the model's own (log 3).
That the port is a set of functions outside the step, and works on a halted core, is the model's choice (log 16).
(R79 (debug memory access), R411, R412) -/
def Obligations.DebugMemoryAndReturn : Prop :=
  ∀ (s : State) (a x : Word) (b : Byte),
    s.memRead a = s.mem.readByte a ∧
    (s.memWrite a b).memRead x = (if x = a ∧ s.mem.implements a = true then b else s.memRead x) ∧
    { s.memWrite a b with mem := s.mem } = s ∧ (s.mem.wf = true → (s.memWrite a b).mem.wf = true) ∧
    s.syscallReturn = { s with pc := s.lr }
end

