-- ==== Sys2Proof/Laws/Bits.lean ====
section
/-! SUPPORT. What each bit-level helper does, bit by bit. -/

namespace Sys2Proof.Machine

theorem allOnes_eq : 0xFFFFFFFF#32 = BitVec.allOnes 32 := by decide

@[simp] theorem replicateBit_getLsbD (b : Bool) (k : Nat) : (replicateBit b).getLsbD k = (decide (k < 32) && b) := by
  cases b with
  | false => simp [replicateBit]
  | true => rw [replicateBit, if_pos rfl, allOnes_eq, BitVec.getLsbD_allOnes, Bool.and_true]

/-- `setBit` replaces one bit and keeps the others. -/
theorem setBit_getLsbD (v : Word) (k : Nat) (b : Bool) (j : Nat) (hj : j < 32) :
    (setBit v k b).getLsbD j = if j = k then b else v.getLsbD j := by
  have h1 : ∀ n, (1#32).getLsbD n = decide (n = 0) := fun n => by simp [BitVec.getLsbD_one]
  simp only [setBit, BitVec.getLsbD_or, BitVec.getLsbD_and, BitVec.getLsbD_not, BitVec.getLsbD_shiftLeft, h1,
    replicateBit_getLsbD, hj, decide_true, Bool.true_and]
  by_cases hjk : j = k
  · subst hjk; simp
  · by_cases hlt : j < k
    · simp [hlt, hjk]
    · have hne : ¬ (j - k = 0) := by omega
      simp [hlt, hjk, hne]

/-- `insertUnder` takes the masked bits from `new` and the others from `v`. -/
theorem insertUnder_getLsbD (m new v : Word) (j : Nat) (hj : j < 32) :
    (insertUnder m new v).getLsbD j = if m.getLsbD j then new.getLsbD j else v.getLsbD j := by
  simp only [insertUnder, BitVec.getLsbD_or, BitVec.getLsbD_and, BitVec.getLsbD_not, hj, decide_true, Bool.true_and]
  cases m.getLsbD j <;> simp

/-- The bits of a shifted run of ones that starts at bit 0. -/
theorem ones_shiftLeft_getLsbD (c : Word) (w n j : Nat) (hc : ∀ i, c.getLsbD i = decide (i < w)) (hj : j < 32) :
    (c <<< n).getLsbD j = (decide (n ≤ j) && decide (j < n + w)) := by
  simp only [BitVec.getLsbD_shiftLeft, hc, hj, decide_true, Bool.true_and]
  by_cases h : j < n
  · simp [h, Nat.not_le.mpr h]
  · have h' : n ≤ j := Nat.le_of_not_lt h
    simp only [h, h', decide_false, Bool.not_false, decide_true, Bool.true_and, decide_eq_decide]
    omega

theorem getLsbD_0xF (i : Nat) : (0xF#32).getLsbD i = decide (i < 4) := by
  by_cases h : i < 32
  · revert i; decide
  · have : ¬ i < 4 := by omega
    simp [BitVec.getLsbD_of_ge _ _ (Nat.le_of_not_lt h), this]

theorem getLsbD_0xFF (i : Nat) : (0xFF#32).getLsbD i = decide (i < 8) := by
  by_cases h : i < 32
  · revert i; decide
  · have : ¬ i < 8 := by omega
    simp [BitVec.getLsbD_of_ge _ _ (Nat.le_of_not_lt h), this]

theorem getLsbD_ones (i : Nat) : (0xFFFFFFFF#32).getLsbD i = decide (i < 32) := by
  rw [allOnes_eq, BitVec.getLsbD_allOnes]

/-- Byte `j` of a word, bit by bit. -/
theorem byteOf_getLsbD (v : Word) (j k : Nat) (hk : k < 8) : (byteOf v j).getLsbD k = v.getLsbD (24 - 8 * j + k) := by
  simp [byteOf, hk]

/-- `setByte` replaces byte `j`, counted from the most significant, and keeps the others. -/
theorem setByte_getLsbD (v : Word) (j : Nat) (b : Byte) (k : Nat) (hj : j < 4) (hk : k < 32) :
    (setByte v j b).getLsbD k =
      if 24 - 8 * j ≤ k ∧ k < 32 - 8 * j then b.getLsbD (k - (24 - 8 * j)) else v.getLsbD k := by
  have hw : 24 - 8 * j + 8 = 32 - 8 * j := by omega
  rw [setByte, insertUnder_getLsbD _ _ _ _ hk, ones_shiftLeft_getLsbD _ 8 _ _ getLsbD_0xFF hk, hw]
  by_cases h : 24 - 8 * j ≤ k ∧ k < 32 - 8 * j
  · simp [h.1, h.2, hk]
  · rw [if_neg h]
    rcases Decidable.not_and_iff_or_not.mp h with h | h <;> simp [h]

/-- `ROTL32` bit by bit (40_helpers.md R136). -/
theorem rotl32_getLsbD (v : Word) (n : BitVec 5) (k : Nat) (hk : k < 32) :
    (rotl32 v n).getLsbD k = v.getLsbD ((k + (32 - n.toNat)) % 32) := by
  have hn : n.toNat < 32 := n.isLt
  simp only [rotl32, BitVec.getLsbD_or, BitVec.getLsbD_shiftLeft, BitVec.getLsbD_ushiftRight, hk, decide_true,
    Bool.true_and]
  by_cases h : k < n.toNat
  · have e : (k + (32 - n.toNat)) % 32 = 32 - n.toNat + k := by omega
    simp [h, e]
  · have e : (k + (32 - n.toNat)) % 32 = k - n.toNat := by omega
    have g : v.getLsbD (32 - n.toNat + k) = false := BitVec.getLsbD_of_ge _ _ (by omega)
    simp [h, e, g]

theorem maskPlain_getLsbD (start stop k : Nat) (hk : k < 32) :
    (maskPlain start stop).getLsbD k = (decide (start + k < 32) && decide (31 - stop ≤ k)) := by
  rw [maskPlain, BitVec.getLsbD_and, BitVec.getLsbD_ushiftRight, getLsbD_ones,
    ones_shiftLeft_getLsbD _ 32 _ _ getLsbD_ones hk]
  have : k < 31 - stop + 32 := by omega
  simp [this]

/-- `MASK` bit by bit (40_helpers.md R137): the MSB-first bit `31 - k`. -/
theorem mask_getLsbD (start stop : BitVec 5) (k : Nat) (hk : k < 32) :
    (mask start stop).getLsbD k =
      if start.toNat ≤ stop.toNat then decide (start.toNat ≤ 31 - k ∧ 31 - k ≤ stop.toNat)
      else decide (start.toNat ≤ 31 - k ∨ 31 - k ≤ stop.toNat) := by
  have h1 : start.toNat < 32 := start.isLt
  have h2 : stop.toNat < 32 := stop.isLt
  unfold mask
  split
  · rw [maskPlain_getLsbD _ _ _ hk, Bool.decide_and]
    congr 1 <;> simp only [decide_eq_decide] <;> omega
  · rw [BitVec.getLsbD_or, maskPlain_getLsbD _ _ _ hk, maskPlain_getLsbD _ _ _ hk, Bool.decide_or]
    congr 1
    · have : 31 - 31 ≤ k := by omega
      simp only [this, decide_true, Bool.and_true, decide_eq_decide]
      omega
    · have : 0 + k < 32 := by omega
      simp only [this, decide_true, Bool.true_and, decide_eq_decide]
      omega

/-- `leadingZerosBelow` counts down to the highest set bit. -/
theorem leadingZerosBelow_spec (v : Word) (n : Nat) :
    leadingZerosBelow v n ≤ n ∧ (∀ j, j < leadingZerosBelow v n → v.getLsbD (n - 1 - j) = false) ∧
      (leadingZerosBelow v n < n → v.getLsbD (n - 1 - leadingZerosBelow v n) = true) := by
  induction n with
  | zero => simp [leadingZerosBelow]
  | succ n ih =>
    obtain ⟨hle, hz, hone⟩ := ih
    unfold leadingZerosBelow
    by_cases hb : v.getLsbD n = true
    · simp [hb]
    · simp only [hb, Bool.false_eq_true, if_false]
      refine ⟨by omega, fun j hj => ?_, fun h => ?_⟩
      · rcases Nat.eq_zero_or_pos j with rfl | hp
        · simpa using hb
        · have := hz (j - 1) (by omega)
          rwa [show n + 1 - 1 - j = n - 1 - (j - 1) by omega]
      · rw [show n + 1 - 1 - (leadingZerosBelow v n + 1) = n - 1 - leadingZerosBelow v n by omega]
        exact hone (by omega)

end Sys2Proof.Machine
end

