-- ==== Sys2Proof/Laws/State.lean ====
section
/-! SUPPORT. One lemma per field per update of the state, so that no later proof unfolds a record update. -/

namespace Sys2Proof.Machine

/-! ### `State.setPc` -/

@[simp] theorem State.setPc_gpr (s : State) (v : Word) : (s.setPc v).gpr = s.gpr := rfl
@[simp] theorem State.setPc_pc (s : State) (v : Word) : (s.setPc v).pc = v := rfl
@[simp] theorem State.setPc_cr (s : State) (v : Word) : (s.setPc v).cr = s.cr := rfl
@[simp] theorem State.setPc_xer (s : State) (v : Word) : (s.setPc v).xer = s.xer := rfl
@[simp] theorem State.setPc_lr (s : State) (v : Word) : (s.setPc v).lr = s.lr := rfl
@[simp] theorem State.setPc_ctr (s : State) (v : Word) : (s.setPc v).ctr = s.ctr := rfl
@[simp] theorem State.setPc_usprg0 (s : State) (v : Word) : (s.setPc v).usprg0 = s.usprg0 := rfl
@[simp] theorem State.setPc_sprg4 (s : State) (v : Word) : (s.setPc v).sprg4 = s.sprg4 := rfl
@[simp] theorem State.setPc_sprg5 (s : State) (v : Word) : (s.setPc v).sprg5 = s.sprg5 := rfl
@[simp] theorem State.setPc_sprg6 (s : State) (v : Word) : (s.setPc v).sprg6 = s.sprg6 := rfl
@[simp] theorem State.setPc_sprg7 (s : State) (v : Word) : (s.setPc v).sprg7 = s.sprg7 := rfl
@[simp] theorem State.setPc_fatal (s : State) (v : Word) : (s.setPc v).fatal = s.fatal := rfl
@[simp] theorem State.setPc_mem (s : State) (v : Word) : (s.setPc v).mem = s.mem := rfl
@[simp] theorem State.setPc_draws (s : State) (v : Word) : (s.setPc v).draws = s.draws := rfl
@[simp] theorem State.setPc_readGpr (s : State) (v : Word) (r : Reg) : (s.setPc v).readGpr r = s.readGpr r := rfl

/-! ### `State.setCr` -/

@[simp] theorem State.setCr_gpr (s : State) (v : Word) : (s.setCr v).gpr = s.gpr := rfl
@[simp] theorem State.setCr_pc (s : State) (v : Word) : (s.setCr v).pc = s.pc := rfl
@[simp] theorem State.setCr_cr (s : State) (v : Word) : (s.setCr v).cr = v := rfl
@[simp] theorem State.setCr_xer (s : State) (v : Word) : (s.setCr v).xer = s.xer := rfl
@[simp] theorem State.setCr_lr (s : State) (v : Word) : (s.setCr v).lr = s.lr := rfl
@[simp] theorem State.setCr_ctr (s : State) (v : Word) : (s.setCr v).ctr = s.ctr := rfl
@[simp] theorem State.setCr_usprg0 (s : State) (v : Word) : (s.setCr v).usprg0 = s.usprg0 := rfl
@[simp] theorem State.setCr_sprg4 (s : State) (v : Word) : (s.setCr v).sprg4 = s.sprg4 := rfl
@[simp] theorem State.setCr_sprg5 (s : State) (v : Word) : (s.setCr v).sprg5 = s.sprg5 := rfl
@[simp] theorem State.setCr_sprg6 (s : State) (v : Word) : (s.setCr v).sprg6 = s.sprg6 := rfl
@[simp] theorem State.setCr_sprg7 (s : State) (v : Word) : (s.setCr v).sprg7 = s.sprg7 := rfl
@[simp] theorem State.setCr_fatal (s : State) (v : Word) : (s.setCr v).fatal = s.fatal := rfl
@[simp] theorem State.setCr_mem (s : State) (v : Word) : (s.setCr v).mem = s.mem := rfl
@[simp] theorem State.setCr_draws (s : State) (v : Word) : (s.setCr v).draws = s.draws := rfl
@[simp] theorem State.setCr_readGpr (s : State) (v : Word) (r : Reg) : (s.setCr v).readGpr r = s.readGpr r := rfl

/-! ### `State.setXer` -/

@[simp] theorem State.setXer_gpr (s : State) (v : Word) : (s.setXer v).gpr = s.gpr := rfl
@[simp] theorem State.setXer_pc (s : State) (v : Word) : (s.setXer v).pc = s.pc := rfl
@[simp] theorem State.setXer_cr (s : State) (v : Word) : (s.setXer v).cr = s.cr := rfl
@[simp] theorem State.setXer_xer (s : State) (v : Word) : (s.setXer v).xer = v := rfl
@[simp] theorem State.setXer_lr (s : State) (v : Word) : (s.setXer v).lr = s.lr := rfl
@[simp] theorem State.setXer_ctr (s : State) (v : Word) : (s.setXer v).ctr = s.ctr := rfl
@[simp] theorem State.setXer_usprg0 (s : State) (v : Word) : (s.setXer v).usprg0 = s.usprg0 := rfl
@[simp] theorem State.setXer_sprg4 (s : State) (v : Word) : (s.setXer v).sprg4 = s.sprg4 := rfl
@[simp] theorem State.setXer_sprg5 (s : State) (v : Word) : (s.setXer v).sprg5 = s.sprg5 := rfl
@[simp] theorem State.setXer_sprg6 (s : State) (v : Word) : (s.setXer v).sprg6 = s.sprg6 := rfl
@[simp] theorem State.setXer_sprg7 (s : State) (v : Word) : (s.setXer v).sprg7 = s.sprg7 := rfl
@[simp] theorem State.setXer_fatal (s : State) (v : Word) : (s.setXer v).fatal = s.fatal := rfl
@[simp] theorem State.setXer_mem (s : State) (v : Word) : (s.setXer v).mem = s.mem := rfl
@[simp] theorem State.setXer_draws (s : State) (v : Word) : (s.setXer v).draws = s.draws := rfl
@[simp] theorem State.setXer_readGpr (s : State) (v : Word) (r : Reg) : (s.setXer v).readGpr r = s.readGpr r := rfl

/-! ### `State.setLr` -/

@[simp] theorem State.setLr_gpr (s : State) (v : Word) : (s.setLr v).gpr = s.gpr := rfl
@[simp] theorem State.setLr_pc (s : State) (v : Word) : (s.setLr v).pc = s.pc := rfl
@[simp] theorem State.setLr_cr (s : State) (v : Word) : (s.setLr v).cr = s.cr := rfl
@[simp] theorem State.setLr_xer (s : State) (v : Word) : (s.setLr v).xer = s.xer := rfl
@[simp] theorem State.setLr_lr (s : State) (v : Word) : (s.setLr v).lr = v := rfl
@[simp] theorem State.setLr_ctr (s : State) (v : Word) : (s.setLr v).ctr = s.ctr := rfl
@[simp] theorem State.setLr_usprg0 (s : State) (v : Word) : (s.setLr v).usprg0 = s.usprg0 := rfl
@[simp] theorem State.setLr_sprg4 (s : State) (v : Word) : (s.setLr v).sprg4 = s.sprg4 := rfl
@[simp] theorem State.setLr_sprg5 (s : State) (v : Word) : (s.setLr v).sprg5 = s.sprg5 := rfl
@[simp] theorem State.setLr_sprg6 (s : State) (v : Word) : (s.setLr v).sprg6 = s.sprg6 := rfl
@[simp] theorem State.setLr_sprg7 (s : State) (v : Word) : (s.setLr v).sprg7 = s.sprg7 := rfl
@[simp] theorem State.setLr_fatal (s : State) (v : Word) : (s.setLr v).fatal = s.fatal := rfl
@[simp] theorem State.setLr_mem (s : State) (v : Word) : (s.setLr v).mem = s.mem := rfl
@[simp] theorem State.setLr_draws (s : State) (v : Word) : (s.setLr v).draws = s.draws := rfl
@[simp] theorem State.setLr_readGpr (s : State) (v : Word) (r : Reg) : (s.setLr v).readGpr r = s.readGpr r := rfl

/-! ### `State.setCtr` -/

@[simp] theorem State.setCtr_gpr (s : State) (v : Word) : (s.setCtr v).gpr = s.gpr := rfl
@[simp] theorem State.setCtr_pc (s : State) (v : Word) : (s.setCtr v).pc = s.pc := rfl
@[simp] theorem State.setCtr_cr (s : State) (v : Word) : (s.setCtr v).cr = s.cr := rfl
@[simp] theorem State.setCtr_xer (s : State) (v : Word) : (s.setCtr v).xer = s.xer := rfl
@[simp] theorem State.setCtr_lr (s : State) (v : Word) : (s.setCtr v).lr = s.lr := rfl
@[simp] theorem State.setCtr_ctr (s : State) (v : Word) : (s.setCtr v).ctr = v := rfl
@[simp] theorem State.setCtr_usprg0 (s : State) (v : Word) : (s.setCtr v).usprg0 = s.usprg0 := rfl
@[simp] theorem State.setCtr_sprg4 (s : State) (v : Word) : (s.setCtr v).sprg4 = s.sprg4 := rfl
@[simp] theorem State.setCtr_sprg5 (s : State) (v : Word) : (s.setCtr v).sprg5 = s.sprg5 := rfl
@[simp] theorem State.setCtr_sprg6 (s : State) (v : Word) : (s.setCtr v).sprg6 = s.sprg6 := rfl
@[simp] theorem State.setCtr_sprg7 (s : State) (v : Word) : (s.setCtr v).sprg7 = s.sprg7 := rfl
@[simp] theorem State.setCtr_fatal (s : State) (v : Word) : (s.setCtr v).fatal = s.fatal := rfl
@[simp] theorem State.setCtr_mem (s : State) (v : Word) : (s.setCtr v).mem = s.mem := rfl
@[simp] theorem State.setCtr_draws (s : State) (v : Word) : (s.setCtr v).draws = s.draws := rfl
@[simp] theorem State.setCtr_readGpr (s : State) (v : Word) (r : Reg) : (s.setCtr v).readGpr r = s.readGpr r := rfl

/-! ### `State.setMem` -/

@[simp] theorem State.setMem_gpr (s : State) (m : Memory) : (s.setMem m).gpr = s.gpr := rfl
@[simp] theorem State.setMem_pc (s : State) (m : Memory) : (s.setMem m).pc = s.pc := rfl
@[simp] theorem State.setMem_cr (s : State) (m : Memory) : (s.setMem m).cr = s.cr := rfl
@[simp] theorem State.setMem_xer (s : State) (m : Memory) : (s.setMem m).xer = s.xer := rfl
@[simp] theorem State.setMem_lr (s : State) (m : Memory) : (s.setMem m).lr = s.lr := rfl
@[simp] theorem State.setMem_ctr (s : State) (m : Memory) : (s.setMem m).ctr = s.ctr := rfl
@[simp] theorem State.setMem_usprg0 (s : State) (m : Memory) : (s.setMem m).usprg0 = s.usprg0 := rfl
@[simp] theorem State.setMem_sprg4 (s : State) (m : Memory) : (s.setMem m).sprg4 = s.sprg4 := rfl
@[simp] theorem State.setMem_sprg5 (s : State) (m : Memory) : (s.setMem m).sprg5 = s.sprg5 := rfl
@[simp] theorem State.setMem_sprg6 (s : State) (m : Memory) : (s.setMem m).sprg6 = s.sprg6 := rfl
@[simp] theorem State.setMem_sprg7 (s : State) (m : Memory) : (s.setMem m).sprg7 = s.sprg7 := rfl
@[simp] theorem State.setMem_fatal (s : State) (m : Memory) : (s.setMem m).fatal = s.fatal := rfl
@[simp] theorem State.setMem_mem (s : State) (m : Memory) : (s.setMem m).mem = m := rfl
@[simp] theorem State.setMem_draws (s : State) (m : Memory) : (s.setMem m).draws = s.draws := rfl
@[simp] theorem State.setMem_readGpr (s : State) (m : Memory) (r : Reg) : (s.setMem m).readGpr r = s.readGpr r := rfl

/-! ### `State.writeGpr` -/

@[simp] theorem State.writeGpr_gpr (s : State) (r : Reg) (v : Word) : (s.writeGpr r v).gpr = s.gpr.set r.toNat v r.isLt := rfl
@[simp] theorem State.writeGpr_pc (s : State) (r : Reg) (v : Word) : (s.writeGpr r v).pc = s.pc := rfl
@[simp] theorem State.writeGpr_cr (s : State) (r : Reg) (v : Word) : (s.writeGpr r v).cr = s.cr := rfl
@[simp] theorem State.writeGpr_xer (s : State) (r : Reg) (v : Word) : (s.writeGpr r v).xer = s.xer := rfl
@[simp] theorem State.writeGpr_lr (s : State) (r : Reg) (v : Word) : (s.writeGpr r v).lr = s.lr := rfl
@[simp] theorem State.writeGpr_ctr (s : State) (r : Reg) (v : Word) : (s.writeGpr r v).ctr = s.ctr := rfl
@[simp] theorem State.writeGpr_usprg0 (s : State) (r : Reg) (v : Word) : (s.writeGpr r v).usprg0 = s.usprg0 := rfl
@[simp] theorem State.writeGpr_sprg4 (s : State) (r : Reg) (v : Word) : (s.writeGpr r v).sprg4 = s.sprg4 := rfl
@[simp] theorem State.writeGpr_sprg5 (s : State) (r : Reg) (v : Word) : (s.writeGpr r v).sprg5 = s.sprg5 := rfl
@[simp] theorem State.writeGpr_sprg6 (s : State) (r : Reg) (v : Word) : (s.writeGpr r v).sprg6 = s.sprg6 := rfl
@[simp] theorem State.writeGpr_sprg7 (s : State) (r : Reg) (v : Word) : (s.writeGpr r v).sprg7 = s.sprg7 := rfl
@[simp] theorem State.writeGpr_fatal (s : State) (r : Reg) (v : Word) : (s.writeGpr r v).fatal = s.fatal := rfl
@[simp] theorem State.writeGpr_mem (s : State) (r : Reg) (v : Word) : (s.writeGpr r v).mem = s.mem := rfl
@[simp] theorem State.writeGpr_draws (s : State) (r : Reg) (v : Word) : (s.writeGpr r v).draws = s.draws := rfl

/-! ### `State.fatalStop` -/

@[simp] theorem State.fatalStop_gpr (s : State) (c : FatalCause) : (s.fatalStop c).gpr = s.gpr := rfl
@[simp] theorem State.fatalStop_pc (s : State) (c : FatalCause) : (s.fatalStop c).pc = s.pc := rfl
@[simp] theorem State.fatalStop_cr (s : State) (c : FatalCause) : (s.fatalStop c).cr = s.cr := rfl
@[simp] theorem State.fatalStop_xer (s : State) (c : FatalCause) : (s.fatalStop c).xer = s.xer := rfl
@[simp] theorem State.fatalStop_lr (s : State) (c : FatalCause) : (s.fatalStop c).lr = s.lr := rfl
@[simp] theorem State.fatalStop_ctr (s : State) (c : FatalCause) : (s.fatalStop c).ctr = s.ctr := rfl
@[simp] theorem State.fatalStop_usprg0 (s : State) (c : FatalCause) : (s.fatalStop c).usprg0 = s.usprg0 := rfl
@[simp] theorem State.fatalStop_sprg4 (s : State) (c : FatalCause) : (s.fatalStop c).sprg4 = s.sprg4 := rfl
@[simp] theorem State.fatalStop_sprg5 (s : State) (c : FatalCause) : (s.fatalStop c).sprg5 = s.sprg5 := rfl
@[simp] theorem State.fatalStop_sprg6 (s : State) (c : FatalCause) : (s.fatalStop c).sprg6 = s.sprg6 := rfl
@[simp] theorem State.fatalStop_sprg7 (s : State) (c : FatalCause) : (s.fatalStop c).sprg7 = s.sprg7 := rfl
@[simp] theorem State.fatalStop_fatal (s : State) (c : FatalCause) : (s.fatalStop c).fatal = some c := rfl
@[simp] theorem State.fatalStop_mem (s : State) (c : FatalCause) : (s.fatalStop c).mem = s.mem := rfl
@[simp] theorem State.fatalStop_draws (s : State) (c : FatalCause) : (s.fatalStop c).draws = s.draws := rfl
@[simp] theorem State.fatalStop_readGpr (s : State) (c : FatalCause) (r : Reg) : (s.fatalStop c).readGpr r = s.readGpr r := rfl

/-! ### `State.draw` -/

@[simp] theorem State.draw_gpr (s : State) : (s.draw).gpr = s.gpr := rfl
@[simp] theorem State.draw_pc (s : State) : (s.draw).pc = s.pc := rfl
@[simp] theorem State.draw_cr (s : State) : (s.draw).cr = s.cr := rfl
@[simp] theorem State.draw_xer (s : State) : (s.draw).xer = s.xer := rfl
@[simp] theorem State.draw_lr (s : State) : (s.draw).lr = s.lr := rfl
@[simp] theorem State.draw_ctr (s : State) : (s.draw).ctr = s.ctr := rfl
@[simp] theorem State.draw_usprg0 (s : State) : (s.draw).usprg0 = s.usprg0 := rfl
@[simp] theorem State.draw_sprg4 (s : State) : (s.draw).sprg4 = s.sprg4 := rfl
@[simp] theorem State.draw_sprg5 (s : State) : (s.draw).sprg5 = s.sprg5 := rfl
@[simp] theorem State.draw_sprg6 (s : State) : (s.draw).sprg6 = s.sprg6 := rfl
@[simp] theorem State.draw_sprg7 (s : State) : (s.draw).sprg7 = s.sprg7 := rfl
@[simp] theorem State.draw_fatal (s : State) : (s.draw).fatal = s.fatal := rfl
@[simp] theorem State.draw_mem (s : State) : (s.draw).mem = s.mem := rfl
@[simp] theorem State.draw_draws (s : State) : (s.draw).draws = s.draws + 1 := rfl
@[simp] theorem State.draw_readGpr (s : State) (r : Reg) : (s.draw).readGpr r = s.readGpr r := rfl

/-! ### `State.setCa` -/

@[simp] theorem State.setCa_gpr (s : State) (b : Bool) : (s.setCa b).gpr = s.gpr := rfl
@[simp] theorem State.setCa_pc (s : State) (b : Bool) : (s.setCa b).pc = s.pc := rfl
@[simp] theorem State.setCa_cr (s : State) (b : Bool) : (s.setCa b).cr = s.cr := rfl
@[simp] theorem State.setCa_xer (s : State) (b : Bool) : (s.setCa b).xer = setBit s.xer 29 b := rfl
@[simp] theorem State.setCa_lr (s : State) (b : Bool) : (s.setCa b).lr = s.lr := rfl
@[simp] theorem State.setCa_ctr (s : State) (b : Bool) : (s.setCa b).ctr = s.ctr := rfl
@[simp] theorem State.setCa_usprg0 (s : State) (b : Bool) : (s.setCa b).usprg0 = s.usprg0 := rfl
@[simp] theorem State.setCa_sprg4 (s : State) (b : Bool) : (s.setCa b).sprg4 = s.sprg4 := rfl
@[simp] theorem State.setCa_sprg5 (s : State) (b : Bool) : (s.setCa b).sprg5 = s.sprg5 := rfl
@[simp] theorem State.setCa_sprg6 (s : State) (b : Bool) : (s.setCa b).sprg6 = s.sprg6 := rfl
@[simp] theorem State.setCa_sprg7 (s : State) (b : Bool) : (s.setCa b).sprg7 = s.sprg7 := rfl
@[simp] theorem State.setCa_fatal (s : State) (b : Bool) : (s.setCa b).fatal = s.fatal := rfl
@[simp] theorem State.setCa_mem (s : State) (b : Bool) : (s.setCa b).mem = s.mem := rfl
@[simp] theorem State.setCa_draws (s : State) (b : Bool) : (s.setCa b).draws = s.draws := rfl
@[simp] theorem State.setCa_readGpr (s : State) (b : Bool) (r : Reg) : (s.setCa b).readGpr r = s.readGpr r := rfl

/-! ### `State.recordOverflow` -/

@[simp] theorem State.recordOverflow_gpr (s : State) (b : Bool) : (s.recordOverflow b).gpr = s.gpr := rfl
@[simp] theorem State.recordOverflow_pc (s : State) (b : Bool) : (s.recordOverflow b).pc = s.pc := rfl
@[simp] theorem State.recordOverflow_cr (s : State) (b : Bool) : (s.recordOverflow b).cr = s.cr := rfl
@[simp] theorem State.recordOverflow_lr (s : State) (b : Bool) : (s.recordOverflow b).lr = s.lr := rfl
@[simp] theorem State.recordOverflow_ctr (s : State) (b : Bool) : (s.recordOverflow b).ctr = s.ctr := rfl
@[simp] theorem State.recordOverflow_usprg0 (s : State) (b : Bool) : (s.recordOverflow b).usprg0 = s.usprg0 := rfl
@[simp] theorem State.recordOverflow_sprg4 (s : State) (b : Bool) : (s.recordOverflow b).sprg4 = s.sprg4 := rfl
@[simp] theorem State.recordOverflow_sprg5 (s : State) (b : Bool) : (s.recordOverflow b).sprg5 = s.sprg5 := rfl
@[simp] theorem State.recordOverflow_sprg6 (s : State) (b : Bool) : (s.recordOverflow b).sprg6 = s.sprg6 := rfl
@[simp] theorem State.recordOverflow_sprg7 (s : State) (b : Bool) : (s.recordOverflow b).sprg7 = s.sprg7 := rfl
@[simp] theorem State.recordOverflow_fatal (s : State) (b : Bool) : (s.recordOverflow b).fatal = s.fatal := rfl
@[simp] theorem State.recordOverflow_mem (s : State) (b : Bool) : (s.recordOverflow b).mem = s.mem := rfl
@[simp] theorem State.recordOverflow_draws (s : State) (b : Bool) : (s.recordOverflow b).draws = s.draws := rfl
@[simp] theorem State.recordOverflow_readGpr (s : State) (b : Bool) (r : Reg) : (s.recordOverflow b).readGpr r = s.readGpr r := rfl

/-! ### `State.writeCrBit` -/

@[simp] theorem State.writeCrBit_gpr (s : State) (i : CrBit) (b : Bool) : (s.writeCrBit i b).gpr = s.gpr := rfl
@[simp] theorem State.writeCrBit_pc (s : State) (i : CrBit) (b : Bool) : (s.writeCrBit i b).pc = s.pc := rfl
@[simp] theorem State.writeCrBit_cr (s : State) (i : CrBit) (b : Bool) : (s.writeCrBit i b).cr = setBit s.cr (31 - i.toNat) b := rfl
@[simp] theorem State.writeCrBit_xer (s : State) (i : CrBit) (b : Bool) : (s.writeCrBit i b).xer = s.xer := rfl
@[simp] theorem State.writeCrBit_lr (s : State) (i : CrBit) (b : Bool) : (s.writeCrBit i b).lr = s.lr := rfl
@[simp] theorem State.writeCrBit_ctr (s : State) (i : CrBit) (b : Bool) : (s.writeCrBit i b).ctr = s.ctr := rfl
@[simp] theorem State.writeCrBit_usprg0 (s : State) (i : CrBit) (b : Bool) : (s.writeCrBit i b).usprg0 = s.usprg0 := rfl
@[simp] theorem State.writeCrBit_sprg4 (s : State) (i : CrBit) (b : Bool) : (s.writeCrBit i b).sprg4 = s.sprg4 := rfl
@[simp] theorem State.writeCrBit_sprg5 (s : State) (i : CrBit) (b : Bool) : (s.writeCrBit i b).sprg5 = s.sprg5 := rfl
@[simp] theorem State.writeCrBit_sprg6 (s : State) (i : CrBit) (b : Bool) : (s.writeCrBit i b).sprg6 = s.sprg6 := rfl
@[simp] theorem State.writeCrBit_sprg7 (s : State) (i : CrBit) (b : Bool) : (s.writeCrBit i b).sprg7 = s.sprg7 := rfl
@[simp] theorem State.writeCrBit_fatal (s : State) (i : CrBit) (b : Bool) : (s.writeCrBit i b).fatal = s.fatal := rfl
@[simp] theorem State.writeCrBit_mem (s : State) (i : CrBit) (b : Bool) : (s.writeCrBit i b).mem = s.mem := rfl
@[simp] theorem State.writeCrBit_draws (s : State) (i : CrBit) (b : Bool) : (s.writeCrBit i b).draws = s.draws := rfl
@[simp] theorem State.writeCrBit_readGpr (s : State) (i : CrBit) (b : Bool) (r : Reg) : (s.writeCrBit i b).readGpr r = s.readGpr r := rfl

/-! ### `State.writeCrField` -/

@[simp] theorem State.writeCrField_gpr (s : State) (n : CrField) (v : BitVec 4) : (s.writeCrField n v).gpr = s.gpr := rfl
@[simp] theorem State.writeCrField_pc (s : State) (n : CrField) (v : BitVec 4) : (s.writeCrField n v).pc = s.pc := rfl
@[simp] theorem State.writeCrField_xer (s : State) (n : CrField) (v : BitVec 4) : (s.writeCrField n v).xer = s.xer := rfl
@[simp] theorem State.writeCrField_lr (s : State) (n : CrField) (v : BitVec 4) : (s.writeCrField n v).lr = s.lr := rfl
@[simp] theorem State.writeCrField_ctr (s : State) (n : CrField) (v : BitVec 4) : (s.writeCrField n v).ctr = s.ctr := rfl
@[simp] theorem State.writeCrField_usprg0 (s : State) (n : CrField) (v : BitVec 4) : (s.writeCrField n v).usprg0 = s.usprg0 := rfl
@[simp] theorem State.writeCrField_sprg4 (s : State) (n : CrField) (v : BitVec 4) : (s.writeCrField n v).sprg4 = s.sprg4 := rfl
@[simp] theorem State.writeCrField_sprg5 (s : State) (n : CrField) (v : BitVec 4) : (s.writeCrField n v).sprg5 = s.sprg5 := rfl
@[simp] theorem State.writeCrField_sprg6 (s : State) (n : CrField) (v : BitVec 4) : (s.writeCrField n v).sprg6 = s.sprg6 := rfl
@[simp] theorem State.writeCrField_sprg7 (s : State) (n : CrField) (v : BitVec 4) : (s.writeCrField n v).sprg7 = s.sprg7 := rfl
@[simp] theorem State.writeCrField_fatal (s : State) (n : CrField) (v : BitVec 4) : (s.writeCrField n v).fatal = s.fatal := rfl
@[simp] theorem State.writeCrField_mem (s : State) (n : CrField) (v : BitVec 4) : (s.writeCrField n v).mem = s.mem := rfl
@[simp] theorem State.writeCrField_draws (s : State) (n : CrField) (v : BitVec 4) : (s.writeCrField n v).draws = s.draws := rfl
@[simp] theorem State.writeCrField_readGpr (s : State) (n : CrField) (v : BitVec 4) (r : Reg) : (s.writeCrField n v).readGpr r = s.readGpr r := rfl

/-! ### `State.cr0Update` -/

@[simp] theorem State.cr0Update_gpr (s : State) (v : Word) : (s.cr0Update v).gpr = s.gpr := rfl
@[simp] theorem State.cr0Update_pc (s : State) (v : Word) : (s.cr0Update v).pc = s.pc := rfl
@[simp] theorem State.cr0Update_xer (s : State) (v : Word) : (s.cr0Update v).xer = s.xer := rfl
@[simp] theorem State.cr0Update_lr (s : State) (v : Word) : (s.cr0Update v).lr = s.lr := rfl
@[simp] theorem State.cr0Update_ctr (s : State) (v : Word) : (s.cr0Update v).ctr = s.ctr := rfl
@[simp] theorem State.cr0Update_usprg0 (s : State) (v : Word) : (s.cr0Update v).usprg0 = s.usprg0 := rfl
@[simp] theorem State.cr0Update_sprg4 (s : State) (v : Word) : (s.cr0Update v).sprg4 = s.sprg4 := rfl
@[simp] theorem State.cr0Update_sprg5 (s : State) (v : Word) : (s.cr0Update v).sprg5 = s.sprg5 := rfl
@[simp] theorem State.cr0Update_sprg6 (s : State) (v : Word) : (s.cr0Update v).sprg6 = s.sprg6 := rfl
@[simp] theorem State.cr0Update_sprg7 (s : State) (v : Word) : (s.cr0Update v).sprg7 = s.sprg7 := rfl
@[simp] theorem State.cr0Update_fatal (s : State) (v : Word) : (s.cr0Update v).fatal = s.fatal := rfl
@[simp] theorem State.cr0Update_mem (s : State) (v : Word) : (s.cr0Update v).mem = s.mem := rfl
@[simp] theorem State.cr0Update_draws (s : State) (v : Word) : (s.cr0Update v).draws = s.draws := rfl
@[simp] theorem State.cr0Update_readGpr (s : State) (v : Word) (r : Reg) : (s.cr0Update v).readGpr r = s.readGpr r := rfl

/-! ### `State.writeBackCtr` -/

@[simp] theorem State.writeBackCtr_gpr (s : State) (bo : BitVec 5) : (s.writeBackCtr bo).gpr = s.gpr := rfl
@[simp] theorem State.writeBackCtr_pc (s : State) (bo : BitVec 5) : (s.writeBackCtr bo).pc = s.pc := rfl
@[simp] theorem State.writeBackCtr_cr (s : State) (bo : BitVec 5) : (s.writeBackCtr bo).cr = s.cr := rfl
@[simp] theorem State.writeBackCtr_xer (s : State) (bo : BitVec 5) : (s.writeBackCtr bo).xer = s.xer := rfl
@[simp] theorem State.writeBackCtr_lr (s : State) (bo : BitVec 5) : (s.writeBackCtr bo).lr = s.lr := rfl
@[simp] theorem State.writeBackCtr_ctr (s : State) (bo : BitVec 5) : (s.writeBackCtr bo).ctr = branchCtr s.ctr bo := rfl
@[simp] theorem State.writeBackCtr_usprg0 (s : State) (bo : BitVec 5) : (s.writeBackCtr bo).usprg0 = s.usprg0 := rfl
@[simp] theorem State.writeBackCtr_sprg4 (s : State) (bo : BitVec 5) : (s.writeBackCtr bo).sprg4 = s.sprg4 := rfl
@[simp] theorem State.writeBackCtr_sprg5 (s : State) (bo : BitVec 5) : (s.writeBackCtr bo).sprg5 = s.sprg5 := rfl
@[simp] theorem State.writeBackCtr_sprg6 (s : State) (bo : BitVec 5) : (s.writeBackCtr bo).sprg6 = s.sprg6 := rfl
@[simp] theorem State.writeBackCtr_sprg7 (s : State) (bo : BitVec 5) : (s.writeBackCtr bo).sprg7 = s.sprg7 := rfl
@[simp] theorem State.writeBackCtr_fatal (s : State) (bo : BitVec 5) : (s.writeBackCtr bo).fatal = s.fatal := rfl
@[simp] theorem State.writeBackCtr_mem (s : State) (bo : BitVec 5) : (s.writeBackCtr bo).mem = s.mem := rfl
@[simp] theorem State.writeBackCtr_draws (s : State) (bo : BitVec 5) : (s.writeBackCtr bo).draws = s.draws := rfl
@[simp] theorem State.writeBackCtr_readGpr (s : State) (bo : BitVec 5) (r : Reg) : (s.writeBackCtr bo).readGpr r = s.readGpr r := rfl

/-! ### `State.loadStringByte` -/

@[simp] theorem State.loadStringByte_pc (s : State) (r : Reg) (j : Nat) (b : Byte) : (s.loadStringByte r j b).pc = s.pc := rfl
@[simp] theorem State.loadStringByte_cr (s : State) (r : Reg) (j : Nat) (b : Byte) : (s.loadStringByte r j b).cr = s.cr := rfl
@[simp] theorem State.loadStringByte_xer (s : State) (r : Reg) (j : Nat) (b : Byte) : (s.loadStringByte r j b).xer = s.xer := rfl
@[simp] theorem State.loadStringByte_lr (s : State) (r : Reg) (j : Nat) (b : Byte) : (s.loadStringByte r j b).lr = s.lr := rfl
@[simp] theorem State.loadStringByte_ctr (s : State) (r : Reg) (j : Nat) (b : Byte) : (s.loadStringByte r j b).ctr = s.ctr := rfl
@[simp] theorem State.loadStringByte_usprg0 (s : State) (r : Reg) (j : Nat) (b : Byte) : (s.loadStringByte r j b).usprg0 = s.usprg0 := rfl
@[simp] theorem State.loadStringByte_sprg4 (s : State) (r : Reg) (j : Nat) (b : Byte) : (s.loadStringByte r j b).sprg4 = s.sprg4 := rfl
@[simp] theorem State.loadStringByte_sprg5 (s : State) (r : Reg) (j : Nat) (b : Byte) : (s.loadStringByte r j b).sprg5 = s.sprg5 := rfl
@[simp] theorem State.loadStringByte_sprg6 (s : State) (r : Reg) (j : Nat) (b : Byte) : (s.loadStringByte r j b).sprg6 = s.sprg6 := rfl
@[simp] theorem State.loadStringByte_sprg7 (s : State) (r : Reg) (j : Nat) (b : Byte) : (s.loadStringByte r j b).sprg7 = s.sprg7 := rfl
@[simp] theorem State.loadStringByte_fatal (s : State) (r : Reg) (j : Nat) (b : Byte) : (s.loadStringByte r j b).fatal = s.fatal := rfl
@[simp] theorem State.loadStringByte_mem (s : State) (r : Reg) (j : Nat) (b : Byte) : (s.loadStringByte r j b).mem = s.mem := rfl
@[simp] theorem State.loadStringByte_draws (s : State) (r : Reg) (j : Nat) (b : Byte) : (s.loadStringByte r j b).draws = s.draws := rfl

/-! ### `State.placeWord` -/

@[simp] theorem State.placeWord_gpr (s : State) (w : Word) : (s.placeWord w).gpr = s.gpr := rfl
@[simp] theorem State.placeWord_pc (s : State) (w : Word) : (s.placeWord w).pc = s.pc := rfl
@[simp] theorem State.placeWord_cr (s : State) (w : Word) : (s.placeWord w).cr = s.cr := rfl
@[simp] theorem State.placeWord_xer (s : State) (w : Word) : (s.placeWord w).xer = s.xer := rfl
@[simp] theorem State.placeWord_lr (s : State) (w : Word) : (s.placeWord w).lr = s.lr := rfl
@[simp] theorem State.placeWord_ctr (s : State) (w : Word) : (s.placeWord w).ctr = s.ctr := rfl
@[simp] theorem State.placeWord_usprg0 (s : State) (w : Word) : (s.placeWord w).usprg0 = s.usprg0 := rfl
@[simp] theorem State.placeWord_sprg4 (s : State) (w : Word) : (s.placeWord w).sprg4 = s.sprg4 := rfl
@[simp] theorem State.placeWord_sprg5 (s : State) (w : Word) : (s.placeWord w).sprg5 = s.sprg5 := rfl
@[simp] theorem State.placeWord_sprg6 (s : State) (w : Word) : (s.placeWord w).sprg6 = s.sprg6 := rfl
@[simp] theorem State.placeWord_sprg7 (s : State) (w : Word) : (s.placeWord w).sprg7 = s.sprg7 := rfl
@[simp] theorem State.placeWord_fatal (s : State) (w : Word) : (s.placeWord w).fatal = s.fatal := rfl
@[simp] theorem State.placeWord_mem (s : State) (w : Word) : (s.placeWord w).mem = s.mem.writeWord s.pc w := rfl
@[simp] theorem State.placeWord_draws (s : State) (w : Word) : (s.placeWord w).draws = s.draws := rfl
@[simp] theorem State.placeWord_readGpr (s : State) (w : Word) (r : Reg) : (s.placeWord w).readGpr r = s.readGpr r := rfl

/-! ### Operations that are one call of another -/

@[simp] theorem State.ovAdd_eq (s : State) (r s1 s2 s3 : Word) :
    s.ovAdd r s1 s2 s3 = s.recordOverflow (addOverflows r s1 s2 s3) := rfl

@[simp] theorem State.caAdd_eq (s : State) (s1 s2 s3 : Word) : s.caAdd s1 s2 s3 = s.setCa (addCarries s1 s2 s3) := rfl

@[simp] theorem State.ovMul_eq (s : State) (p : BitVec 64) :
    s.ovMul p = s.recordOverflow (p != (p.setWidth 32).signExtend 64) := rfl

@[simp] theorem State.writeCompare_eq (s : State) (n : CrField) (lt gt : Bool) :
    s.writeCompare n lt gt = s.writeCrField n (crFieldOf lt gt (!lt && !gt) s.so) := rfl

/-! ### `State.recordCr0` and `State.link` -/

@[simp] theorem State.recordCr0_gpr (s : State) (rc : Bool) (v : Word) : (s.recordCr0 rc v).gpr = s.gpr := by cases rc <;> rfl
@[simp] theorem State.recordCr0_pc (s : State) (rc : Bool) (v : Word) : (s.recordCr0 rc v).pc = s.pc := by cases rc <;> rfl
@[simp] theorem State.recordCr0_xer (s : State) (rc : Bool) (v : Word) : (s.recordCr0 rc v).xer = s.xer := by cases rc <;> rfl
@[simp] theorem State.recordCr0_lr (s : State) (rc : Bool) (v : Word) : (s.recordCr0 rc v).lr = s.lr := by cases rc <;> rfl
@[simp] theorem State.recordCr0_ctr (s : State) (rc : Bool) (v : Word) : (s.recordCr0 rc v).ctr = s.ctr := by cases rc <;> rfl
@[simp] theorem State.recordCr0_usprg0 (s : State) (rc : Bool) (v : Word) : (s.recordCr0 rc v).usprg0 = s.usprg0 := by cases rc <;> rfl
@[simp] theorem State.recordCr0_sprg4 (s : State) (rc : Bool) (v : Word) : (s.recordCr0 rc v).sprg4 = s.sprg4 := by cases rc <;> rfl
@[simp] theorem State.recordCr0_sprg5 (s : State) (rc : Bool) (v : Word) : (s.recordCr0 rc v).sprg5 = s.sprg5 := by cases rc <;> rfl
@[simp] theorem State.recordCr0_sprg6 (s : State) (rc : Bool) (v : Word) : (s.recordCr0 rc v).sprg6 = s.sprg6 := by cases rc <;> rfl
@[simp] theorem State.recordCr0_sprg7 (s : State) (rc : Bool) (v : Word) : (s.recordCr0 rc v).sprg7 = s.sprg7 := by cases rc <;> rfl
@[simp] theorem State.recordCr0_fatal (s : State) (rc : Bool) (v : Word) : (s.recordCr0 rc v).fatal = s.fatal := by cases rc <;> rfl
@[simp] theorem State.recordCr0_mem (s : State) (rc : Bool) (v : Word) : (s.recordCr0 rc v).mem = s.mem := by cases rc <;> rfl
@[simp] theorem State.recordCr0_draws (s : State) (rc : Bool) (v : Word) : (s.recordCr0 rc v).draws = s.draws := by cases rc <;> rfl
@[simp] theorem State.recordCr0_readGpr (s : State) (rc : Bool) (v : Word) (r : Reg) : (s.recordCr0 rc v).readGpr r = s.readGpr r := by
  cases rc <;> rfl
@[simp] theorem State.link_gpr (s : State) (lk : Bool) : (s.link lk).gpr = s.gpr := by cases lk <;> rfl
@[simp] theorem State.link_pc (s : State) (lk : Bool) : (s.link lk).pc = s.pc := by cases lk <;> rfl
@[simp] theorem State.link_cr (s : State) (lk : Bool) : (s.link lk).cr = s.cr := by cases lk <;> rfl
@[simp] theorem State.link_xer (s : State) (lk : Bool) : (s.link lk).xer = s.xer := by cases lk <;> rfl
@[simp] theorem State.link_ctr (s : State) (lk : Bool) : (s.link lk).ctr = s.ctr := by cases lk <;> rfl
@[simp] theorem State.link_usprg0 (s : State) (lk : Bool) : (s.link lk).usprg0 = s.usprg0 := by cases lk <;> rfl
@[simp] theorem State.link_sprg4 (s : State) (lk : Bool) : (s.link lk).sprg4 = s.sprg4 := by cases lk <;> rfl
@[simp] theorem State.link_sprg5 (s : State) (lk : Bool) : (s.link lk).sprg5 = s.sprg5 := by cases lk <;> rfl
@[simp] theorem State.link_sprg6 (s : State) (lk : Bool) : (s.link lk).sprg6 = s.sprg6 := by cases lk <;> rfl
@[simp] theorem State.link_sprg7 (s : State) (lk : Bool) : (s.link lk).sprg7 = s.sprg7 := by cases lk <;> rfl
@[simp] theorem State.link_fatal (s : State) (lk : Bool) : (s.link lk).fatal = s.fatal := by cases lk <;> rfl
@[simp] theorem State.link_mem (s : State) (lk : Bool) : (s.link lk).mem = s.mem := by cases lk <;> rfl
@[simp] theorem State.link_draws (s : State) (lk : Bool) : (s.link lk).draws = s.draws := by cases lk <;> rfl
@[simp] theorem State.link_lr (s : State) (lk : Bool) : (s.link lk).lr = if lk then s.pc + 4#32 else s.lr := by cases lk <;> rfl
@[simp] theorem State.link_readGpr (s : State) (lk : Bool) (r : Reg) : (s.link lk).readGpr r = s.readGpr r := by
  cases lk <;> rfl

/-! ### Reading a general register after a write -/

theorem State.readGpr_writeGpr (s : State) (r x : Reg) (v : Word) :
    (s.writeGpr r v).readGpr x = if x = r then v else s.readGpr x := by
  simp only [State.readGpr, State.writeGpr, Vector.getElem_set, BitVec.toNat_inj, eq_comm]

@[simp] theorem State.readGpr_writeGpr_same (s : State) (r : Reg) (v : Word) : (s.writeGpr r v).readGpr r = v := by
  simp [State.readGpr_writeGpr]

theorem State.readGpr_writeGpr_of_ne (s : State) {r x : Reg} (v : Word) (h : x ≠ r) :
    (s.writeGpr r v).readGpr x = s.readGpr x := by
  simp [State.readGpr_writeGpr, h]

/-! ### The ends of an instruction -/

@[simp] theorem State.nextPc_eq (s : State) : s.nextPc = s.pc + 4#32 := rfl

theorem State.complete_next {s t : State} (h : s.complete = .next t) : t = s.setPc (s.pc + 4#32) := by
  cases h; rfl

theorem State.halt_next {s t : State} {c : FatalCause} (h : s.halt c = .next t) : t = s.fatalStop c := by
  cases h; rfl

end Sys2Proof.Machine
end

