-- ==== Sys2Proof/Laws/Flags.lean ====
section
/-! SUPPORT. What each flag operation does, bit by bit: the XER updates, the CR accessors and CR0UPDATE. -/

namespace Sys2Proof.Machine

/-! ### XER -/

/-- `setCa` writes XER bit 29 and no other. -/
theorem State.setCa_xer_getLsbD (s : State) (b : Bool) (k : Nat) (hk : k < 32) :
    (s.setCa b).xer.getLsbD k = if k = 29 then b else s.xer.getLsbD k :=
  setBit_getLsbD s.xer 29 b k hk

/-- The overflow contract: OV is the argument, SO is set with it and otherwise kept, no other bit changes. -/
theorem State.recordOverflow_xer_getLsbD (s : State) (b : Bool) (k : Nat) (hk : k < 32) :
    (s.recordOverflow b).xer.getLsbD k =
      if k = 31 then (s.xer.getLsbD 31 || b) else if k = 30 then b else s.xer.getLsbD k := by
  cases b with
  | false =>
    have e : (s.recordOverflow false).xer = setBit s.xer 30 false := rfl
    rw [e, setBit_getLsbD _ _ _ _ hk]
    by_cases h31 : k = 31
    · simp [h31]
    · simp [h31]
  | true =>
    have e : (s.recordOverflow true).xer = setBit (setBit s.xer 30 true) 31 true := rfl
    rw [e, setBit_getLsbD _ _ _ _ hk, setBit_getLsbD _ _ _ _ hk]
    by_cases h31 : k = 31 <;> simp [h31]

/-! ### CR -/

/-- `CRBIT_WRITE` writes one bit. -/
theorem State.writeCrBit_cr_getLsbD (s : State) (i : CrBit) (b : Bool) (k : Nat) (hk : k < 32) :
    (s.writeCrBit i b).cr.getLsbD k = if k = 31 - i.toNat then b else s.cr.getLsbD k :=
  setBit_getLsbD s.cr _ b k hk

/-- `CRF_WRITE` writes the four bits of one field. -/
theorem State.writeCrField_cr_getLsbD (s : State) (n : CrField) (v : BitVec 4) (k : Nat) (hk : k < 32) :
    (s.writeCrField n v).cr.getLsbD k =
      if 28 - 4 * n.toNat ≤ k ∧ k < 32 - 4 * n.toNat then v.getLsbD (k - (28 - 4 * n.toNat)) else s.cr.getLsbD k := by
  have hn : n.toNat < 8 := n.isLt
  have e : (s.writeCrField n v).cr =
      insertUnder (0xF#32 <<< (28 - 4 * n.toNat)) (v.setWidth 32 <<< (28 - 4 * n.toNat)) s.cr := rfl
  have hw : 28 - 4 * n.toNat + 4 = 32 - 4 * n.toNat := by omega
  rw [e, insertUnder_getLsbD _ _ _ _ hk, ones_shiftLeft_getLsbD _ 4 _ _ getLsbD_0xF hk, hw]
  by_cases h : 28 - 4 * n.toNat ≤ k ∧ k < 32 - 4 * n.toNat
  · simp [h.1, h.2, hk]
  · rw [if_neg h]
    rcases Decidable.not_and_iff_or_not.mp h with h | h <;> simp [h]

/-- `CRF(n)`, bit by bit. -/
theorem State.crField_getLsbD (s : State) (n : CrField) (k : Nat) (hk : k < 4) :
    (s.crField n).getLsbD k = s.cr.getLsbD (28 - 4 * n.toNat + k) := by
  simp [State.crField, hk]

@[simp] theorem crFieldOf_three (lt gt eq so : Bool) : (crFieldOf lt gt eq so)[3] = lt := by
  cases lt <;> cases gt <;> cases eq <;> cases so <;> rfl

@[simp] theorem crFieldOf_two (lt gt eq so : Bool) : (crFieldOf lt gt eq so)[2] = gt := by
  cases lt <;> cases gt <;> cases eq <;> cases so <;> rfl

@[simp] theorem crFieldOf_one (lt gt eq so : Bool) : (crFieldOf lt gt eq so)[1] = eq := by
  cases lt <;> cases gt <;> cases eq <;> cases so <;> rfl

@[simp] theorem crFieldOf_zero (lt gt eq so : Bool) : (crFieldOf lt gt eq so)[0] = so := by
  cases lt <;> cases gt <;> cases eq <;> cases so <;> rfl

/-- A word's sign and zero tests as comparisons of the signed value. -/
theorem msb_eq_decide_neg (v : Word) : v.msb = decide (v.toInt < 0) := by
  have := BitVec.toInt_neg_iff (x := v)
  have h2 := BitVec.msb_eq_decide v
  rw [h2]
  simp only [decide_eq_decide]
  omega

theorem eq_zero_iff_toInt (v : Word) : v = 0#32 ↔ v.toInt = 0 := by
  constructor
  · rintro rfl; rfl
  · intro h; exact BitVec.eq_of_toInt_eq (by simpa using h)

/-- CR after CR0UPDATE, bit by bit: LT, GT and EQ of the result as a signed number, SO from the XER of the call, and
every other bit as before (40_helpers.md R130). -/
theorem State.cr0Update_cr_getLsbD (s : State) (v : Word) (k : Nat) (hk : k < 32) :
    (s.cr0Update v).cr.getLsbD k =
      if k = 31 then decide (v.toInt < 0)
      else if k = 30 then decide (0 < v.toInt)
      else if k = 29 then decide (v.toInt = 0)
      else if k = 28 then s.xer.getLsbD 31
      else s.cr.getLsbD k := by
  have e : (s.cr0Update v).cr.getLsbD k =
      (s.writeCrField 0#3 (crFieldOf v.msb (!v.msb && !(v == 0#32)) (v == 0#32) s.so)).cr.getLsbD k := rfl
  have h0 : (v == 0#32) = decide (v.toInt = 0) := by
    rw [Bool.eq_iff_iff, beq_iff_eq, decide_eq_true_eq]; exact eq_zero_iff_toInt v
  have hgt : (!decide (v.toInt < 0) && !decide (v.toInt = 0)) = decide (0 < v.toInt) := by
    rw [Bool.eq_iff_iff]; simp only [Bool.and_eq_true, Bool.not_eq_true', decide_eq_false_iff_not, decide_eq_true_eq]
    omega
  rw [e, State.writeCrField_cr_getLsbD _ _ _ _ hk, h0, msb_eq_decide_neg, hgt]
  by_cases h31 : k = 31
  · subst h31; simp
  by_cases h30 : k = 30
  · subst h30; simp
  by_cases h29 : k = 29
  · subst h29; simp
  by_cases h28 : k = 28
  · subst h28; simp [State.so]
  · have : ¬ (28 ≤ k ∧ k < 32) := by omega
    simp [this, h31, h30, h29, h28]

end Sys2Proof.Machine
end

