-- ==== Sys2Proof/Laws/Memory.lean ====
section
/-! SUPPORT. The laws of memory: a read after a write, the canonical form kept by every operation, and what the wide
accesses read and leave alone. -/

namespace Sys2Proof.Machine

/-! ### Cells -/

theorem lookupCell_dropCell (cells : List Host.Cell) (k x : Nat) :
    lookupCell (dropCell k cells) x = if x = k then Config.unwrittenByte else lookupCell cells x := by
  induction cells with
  | nil => simp [dropCell, lookupCell]
  | cons c rest ih =>
    obtain ⟨a, b⟩ := c
    by_cases hk : a = k
    · subst hk
      have : dropCell a ((a, b) :: rest) = dropCell a rest := by simp [dropCell]
      rw [this, ih]
      by_cases hx : x = a
      · simp [hx]
      · simp [lookupCell, hx, Ne.symm hx]
    · have : dropCell k ((a, b) :: rest) = (a, b) :: dropCell k rest := by simp [dropCell, hk]
      rw [this]
      by_cases hx : a = x
      · subst hx; simp [lookupCell, hk]
      · simp [lookupCell, hx, ih]

theorem lookupCell_placeCell (cells : List Host.Cell) (k x : Nat) (b : Byte) (h : ∀ c ∈ cells, c.1 ≠ k) :
    lookupCell (placeCell k b cells) x = if x = k then b else lookupCell cells x := by
  induction cells with
  | nil =>
    by_cases hx : x = k
    · simp [placeCell, lookupCell, hx]
    · simp [placeCell, lookupCell, hx, Ne.symm hx]
  | cons c rest ih =>
    obtain ⟨a, d⟩ := c
    have hak : a ≠ k := h (a, d) (by simp)
    have ih := ih fun c hc => h c (by simp [hc])
    unfold placeCell
    split
    · by_cases hx : x = k
      · simp [lookupCell, hx]
      · simp [lookupCell, hx, Ne.symm hx]
    · by_cases hx : a = x
      · subst hx; simp [lookupCell, hak]
      · simp [lookupCell, hx, ih]

theorem dropCell_ne (cells : List Host.Cell) (k : Nat) : ∀ c ∈ dropCell k cells, c.1 ≠ k := by
  intro c hc
  simpa using (List.mem_filter.mp hc).2

/-- Looking up any address after one byte was replaced. -/
theorem lookupCell_insertCell (cells : List Host.Cell) (k x : Nat) (b : Byte) :
    lookupCell (insertCell k b cells) x = if x = k then b else lookupCell cells x := by
  unfold insertCell
  split
  · rename_i h
    rw [lookupCell_dropCell, h]
  · rw [lookupCell_placeCell _ _ _ _ (dropCell_ne cells k), lookupCell_dropCell]
    by_cases hx : x = k <;> simp [hx]

/-! ### Bytes -/

@[simp] theorem Memory.writeByte_base (m : Memory) (a : Word) (b : Byte) : (m.writeByte a b).base = m.base := by
  unfold Memory.writeByte; split <;> rfl

@[simp] theorem Memory.writeByte_size (m : Memory) (a : Word) (b : Byte) : (m.writeByte a b).size = m.size := by
  unfold Memory.writeByte; split <;> rfl

@[simp] theorem Memory.writeByte_implements (m : Memory) (a x : Word) (b : Byte) :
    (m.writeByte a b).implements x = m.implements x := by
  simp [Memory.implements]

/-- A byte read after a byte write: the written byte at its own address if it is implemented, every other byte as
before (20_memory.md R62, R63, R66). -/
theorem Memory.readByte_writeByte (m : Memory) (a x : Word) (b : Byte) :
    (m.writeByte a b).readByte x = if x = a ∧ m.implements a = true then b else m.readByte x := by
  by_cases hx : m.implements x = true
  · by_cases ha : m.implements a = true
    · have e : m.writeByte a b = { m with cells := insertCell a.toNat b m.cells } := by simp [Memory.writeByte, ha]
      have i : ({ m with cells := insertCell a.toNat b m.cells } : Memory).implements x = true := hx
      rw [e, Memory.readByte, if_pos i, Memory.readByte, if_pos hx]
      simp only [lookupCell_insertCell, ha, and_true, BitVec.toNat_inj]
    · simp [Memory.writeByte, ha]
  · have hxa : ¬ (x = a ∧ m.implements a = true) := fun h => hx (h.1 ▸ h.2)
    have i : ¬ (m.writeByte a b).implements x = true := by simpa using hx
    rw [Memory.readByte, if_neg i, if_neg hxa, Memory.readByte, if_neg hx]

theorem Memory.readByte_writeByte_same (m : Memory) (a : Word) (b : Byte) :
    (m.writeByte a b).readByte a = if m.implements a = true then b else 0#8 := by
  rw [Memory.readByte_writeByte]
  by_cases h : m.implements a = true <;> simp [h, Memory.readByte]

theorem Memory.readByte_writeByte_of_ne (m : Memory) {a x : Word} (b : Byte) (h : x ≠ a) :
    (m.writeByte a b).readByte x = m.readByte x := by
  rw [Memory.readByte_writeByte, if_neg fun hx => h hx.1]

/-- A byte outside the implemented range reads 0 (20_memory.md R66). -/
theorem Memory.readByte_outside (m : Memory) (a : Word) (h : m.implements a = false) : m.readByte a = 0#8 := by
  simp [Memory.readByte, h]

/-! ### The canonical form -/

theorem placeCell_mem (cells : List Host.Cell) (k : Nat) (b : Byte) (c : Host.Cell) (h : c ∈ placeCell k b cells) :
    c = (k, b) ∨ c ∈ cells := by
  induction cells with
  | nil => simpa [placeCell] using h
  | cons d rest ih =>
    unfold placeCell at h
    split at h
    · simpa using h
    · rcases List.mem_cons.mp h with h | h
      · simp [h]
      · rcases ih h with h | h <;> simp [h]

theorem placeCell_pairwise (cells : List Host.Cell) (k : Nat) (b : Byte) (hne : ∀ c ∈ cells, c.1 ≠ k)
    (h : cells.Pairwise fun c d => c.1 < d.1) : (placeCell k b cells).Pairwise fun c d => c.1 < d.1 := by
  induction cells with
  | nil => simp [placeCell]
  | cons d rest ih =>
    obtain ⟨hd, hrest⟩ := List.pairwise_cons.mp h
    have hdk := hne d (by simp)
    unfold placeCell
    split
    · rename_i hlt
      refine List.pairwise_cons.mpr ⟨fun c hc => ?_, h⟩
      rcases List.mem_cons.mp hc with rfl | hc
      · exact hlt
      · exact Nat.lt_trans hlt (hd c hc)
    · rename_i hge
      refine List.pairwise_cons.mpr ⟨fun c hc => ?_, ih (fun c hc => hne c (by simp [hc])) hrest⟩
      rcases placeCell_mem _ _ _ _ hc with rfl | hc
      · exact Nat.lt_of_le_of_ne (Nat.le_of_not_lt hge) hdk
      · exact hd c hc

/-- A byte write keeps the canonical form. -/
theorem Memory.writeByte_wf (m : Memory) (a : Word) (b : Byte) (h : m.wf = true) : (m.writeByte a b).wf = true := by
  unfold Memory.writeByte
  split
  · rename_i ha
    simp only [Memory.wf, Bool.and_eq_true, decide_eq_true_eq, List.all_eq_true] at h ⊢
    obtain ⟨hp, hok⟩ := h
    have hdrop : (dropCell a.toNat m.cells).Pairwise fun c d => c.1 < d.1 := hp.filter _
    have hmem : ∀ c ∈ dropCell a.toNat m.cells, m.cellOk c = true := fun c hc => hok c (List.mem_filter.mp hc).1
    unfold insertCell
    split
    · exact ⟨hdrop, hmem⟩
    · rename_i hb
      refine ⟨placeCell_pairwise _ _ _ (dropCell_ne _ _) hdrop, fun c hc => ?_⟩
      rcases placeCell_mem _ _ _ _ hc with rfl | hc
      · simp only [Memory.implements, Bool.and_eq_true, decide_eq_true_eq] at ha
        have := a.isLt
        simp [Memory.cellOk, ha.1, ha.2, hb, this]
      · exact hmem c hc
  · exact h

theorem Memory.writeHalf_wf (m : Memory) (a v : Word) (h : m.wf = true) : (m.writeHalf a v).wf = true :=
  writeByte_wf _ _ _ (writeByte_wf _ _ _ h)

theorem Memory.writeWord_wf (m : Memory) (a v : Word) (h : m.wf = true) : (m.writeWord a v).wf = true :=
  writeByte_wf _ _ _ (writeByte_wf _ _ _ (writeByte_wf _ _ _ (writeByte_wf _ _ _ h)))

theorem Memory.writeHalfRev_wf (m : Memory) (a v : Word) (h : m.wf = true) : (m.writeHalfRev a v).wf = true :=
  writeByte_wf _ _ _ (writeByte_wf _ _ _ h)

theorem Memory.writeWordRev_wf (m : Memory) (a v : Word) (h : m.wf = true) : (m.writeWordRev a v).wf = true :=
  writeByte_wf _ _ _ (writeByte_wf _ _ _ (writeByte_wf _ _ _ (writeByte_wf _ _ _ h)))

/-! ### The wide accesses -/

@[simp] theorem Memory.writeHalf_base (m : Memory) (a v : Word) : (m.writeHalf a v).base = m.base := by
  simp [Memory.writeHalf]

@[simp] theorem Memory.writeHalf_size (m : Memory) (a v : Word) : (m.writeHalf a v).size = m.size := by
  simp [Memory.writeHalf]

@[simp] theorem Memory.writeWord_base (m : Memory) (a v : Word) : (m.writeWord a v).base = m.base := by
  simp [Memory.writeWord]

@[simp] theorem Memory.writeWord_size (m : Memory) (a v : Word) : (m.writeWord a v).size = m.size := by
  simp [Memory.writeWord]

@[simp] theorem Memory.writeHalfRev_base (m : Memory) (a v : Word) : (m.writeHalfRev a v).base = m.base := by
  simp [Memory.writeHalfRev]

@[simp] theorem Memory.writeHalfRev_size (m : Memory) (a v : Word) : (m.writeHalfRev a v).size = m.size := by
  simp [Memory.writeHalfRev]

@[simp] theorem Memory.writeWordRev_base (m : Memory) (a v : Word) : (m.writeWordRev a v).base = m.base := by
  simp [Memory.writeWordRev]

@[simp] theorem Memory.writeWordRev_size (m : Memory) (a v : Word) : (m.writeWordRev a v).size = m.size := by
  simp [Memory.writeWordRev]

theorem Memory.writeHalf_implements (m : Memory) (a v x : Word) : (m.writeHalf a v).implements x = m.implements x := by
  simp [Memory.implements]

theorem Memory.writeWord_implements (m : Memory) (a v x : Word) : (m.writeWord a v).implements x = m.implements x := by
  simp [Memory.implements]

/-- Adding different offsets below 2^32 to one address gives different addresses. -/
theorem offset_ne (a : Word) {i j : Nat} (hi : i < 4294967296) (hj : j < 4294967296) (h : i ≠ j) :
    a + BitVec.ofNat 32 i ≠ a + BitVec.ofNat 32 j := by
  intro e
  have := congrArg BitVec.toNat e
  simp only [BitVec.toNat_add, BitVec.toNat_ofNat] at this
  omega

/-- Every byte after a word store: the four stored bytes, most significant first, where implemented, and every other
byte as before. -/
theorem Memory.readByte_writeWord (m : Memory) (a v x : Word) :
    (m.writeWord a v).readByte x =
      if x = a + 3#32 ∧ m.implements x = true then byteOf v 3
      else if x = a + 2#32 ∧ m.implements x = true then byteOf v 2
      else if x = a + 1#32 ∧ m.implements x = true then byteOf v 1
      else if x = a ∧ m.implements x = true then byteOf v 0
      else m.readByte x := by
  have key : ∀ b, (x = b ∧ m.implements b = true) ↔ (x = b ∧ m.implements x = true) :=
    fun b => ⟨fun h => ⟨h.1, h.1 ▸ h.2⟩, fun h => ⟨h.1, h.1 ▸ h.2⟩⟩
  simp only [Memory.writeWord, Memory.readByte_writeByte, Memory.writeByte_implements, key]
  rfl

/-- Every byte after a halfword store. -/
theorem Memory.readByte_writeHalf (m : Memory) (a v x : Word) :
    (m.writeHalf a v).readByte x =
      if x = a + 1#32 ∧ m.implements x = true then byteOf v 3
      else if x = a ∧ m.implements x = true then byteOf v 2
      else m.readByte x := by
  have key : ∀ b, (x = b ∧ m.implements b = true) ↔ (x = b ∧ m.implements x = true) :=
    fun b => ⟨fun h => ⟨h.1, h.1 ▸ h.2⟩, fun h => ⟨h.1, h.1 ▸ h.2⟩⟩
  simp only [Memory.writeHalf, Memory.readByte_writeByte, Memory.writeByte_implements, key]
  rfl

/-- Every byte after a byte-reversed word store (20_memory.md R68). -/
theorem Memory.readByte_writeWordRev (m : Memory) (a v x : Word) :
    (m.writeWordRev a v).readByte x =
      if x = a + 3#32 ∧ m.implements x = true then byteOf v 0
      else if x = a + 2#32 ∧ m.implements x = true then byteOf v 1
      else if x = a + 1#32 ∧ m.implements x = true then byteOf v 2
      else if x = a ∧ m.implements x = true then byteOf v 3
      else m.readByte x := by
  have key : ∀ b, (x = b ∧ m.implements b = true) ↔ (x = b ∧ m.implements x = true) :=
    fun b => ⟨fun h => ⟨h.1, h.1 ▸ h.2⟩, fun h => ⟨h.1, h.1 ▸ h.2⟩⟩
  simp only [Memory.writeWordRev, Memory.readByte_writeByte, Memory.writeByte_implements, key]
  rfl

/-- Every byte after a byte-reversed halfword store (20_memory.md R68). -/
theorem Memory.readByte_writeHalfRev (m : Memory) (a v x : Word) :
    (m.writeHalfRev a v).readByte x =
      if x = a + 1#32 ∧ m.implements x = true then byteOf v 2
      else if x = a ∧ m.implements x = true then byteOf v 3
      else m.readByte x := by
  have key : ∀ b, (x = b ∧ m.implements b = true) ↔ (x = b ∧ m.implements x = true) :=
    fun b => ⟨fun h => ⟨h.1, h.1 ▸ h.2⟩, fun h => ⟨h.1, h.1 ▸ h.2⟩⟩
  simp only [Memory.writeHalfRev, Memory.readByte_writeByte, Memory.writeByte_implements, key]
  rfl

end Sys2Proof.Machine
end

