-- ==== Sys2Proof/Laws/Effects.lean ====
section
/-! SUPPORT. What each shared operation can do, said once in the words of Safety.lean: the family patterns, the
branches, the loads and the stores. -/

namespace Sys2Proof.Machine

/-! ### The frame words are reflexive -/

theorem SprsKept.refl (s : State) : SprsKept s s := ⟨rfl, rfl, rfl, rfl, rfl, rfl, rfl, rfl⟩

theorem MemSame.of_eq {s t : State} (h : t.mem = s.mem) : MemSame s t := by
  refine ⟨by rw [h], by rw [h], fun a _ => by rw [h]⟩

theorem MemKept.of_writeByte (s : State) (a : Word) (b : Byte) (stored : Word → Prop) (h : stored a) :
    MemKept s (s.setMem (s.mem.writeByte a b)) stored := by
  refine ⟨by simp, by simp, fun x hx => ?_⟩
  have : x ≠ a := fun e => hx (e ▸ h)
  simp [Memory.readByte_writeByte_of_ne _ _ this]

theorem XerBecomes.refl (s : State) : XerBecomes s s s.so s.ov s.ca := ⟨rfl, rfl, rfl, fun _ _ => rfl⟩

theorem XerBecomes.setCa (s : State) (b : Bool) : XerBecomes s (s.setCa b) s.so s.ov b := by
  refine ⟨?_, ?_, ?_, fun k hk => ?_⟩
  · rw [State.setCa_xer_getLsbD _ _ _ (by omega)]; rfl
  · rw [State.setCa_xer_getLsbD _ _ _ (by omega)]; rfl
  · rw [State.setCa_xer_getLsbD _ _ _ (by omega)]; rfl
  · rw [State.setCa_xer_getLsbD _ _ _ (by omega), if_neg (by omega)]

theorem XerBecomes.recordOverflow (s : State) (b : Bool) : XerBecomes s (s.recordOverflow b) (s.so || b) b s.ca := by
  refine ⟨?_, ?_, ?_, fun k hk => ?_⟩
  · rw [State.recordOverflow_xer_getLsbD _ _ _ (by omega)]; rfl
  · rw [State.recordOverflow_xer_getLsbD _ _ _ (by omega)]; rfl
  · rw [State.recordOverflow_xer_getLsbD _ _ _ (by omega)]; rfl
  · rw [State.recordOverflow_xer_getLsbD _ _ _ (by omega), if_neg (by omega), if_neg (by omega)]

/-- CA first, then the overflow record: the XER of a carrying, overflow-recording sum. -/
theorem XerBecomes.setCa_recordOverflow (s : State) (c b : Bool) :
    XerBecomes s ((s.setCa c).recordOverflow b) (s.so || b) b c := by
  obtain ⟨h31, h30, h29, hlow⟩ := XerBecomes.recordOverflow (s.setCa c) b
  obtain ⟨g31, g30, g29, glow⟩ := XerBecomes.setCa s c
  refine ⟨h31.trans ?_, h30, h29.trans g29, fun k hk => (hlow k hk).trans (glow k hk)⟩
  rw [show (s.setCa c).so = s.so from g31]

/-! ### The end of an instruction that writes one register -/

/-- CR0UPDATE if record, the destination write, `pc`: the end of every arithmetic, logical, shift and rotate
instruction, from a state `s` that differs from the instruction's own state `s0` in XER only. -/
theorem RegEffect.of_finish {s0 s : State} {rc : Bool} {dest : Reg} {v : Word} {so ov ca : Bool}
    (hg : s.gpr = s0.gpr) (hcr : s.cr = s0.cr) (hpc : s.pc = s0.pc) (hs : SprsKept s0 s) (hm : s.mem = s0.mem)
    (hx : XerBecomes s0 s so ov ca) :
    RegEffect s0 (((s.recordCr0 rc v).writeGpr dest v).setPc (s.pc + 4#32)) dest rc v so ov ca := by
  constructor
  · rw [State.setPc_readGpr, State.readGpr_writeGpr_same]
  · intro r hr
    have hr : r ≠ dest := hr
    rw [State.setPc_readGpr, State.readGpr_writeGpr_of_ne _ _ hr, State.recordCr0_readGpr, State.readGpr, State.readGpr]
    simp only [hg]
  · simpa [XerBecomes] using hx
  · cases rc with
    | false => simp [Cr0Recorded, State.recordCr0, hcr]
    | true =>
      simp only [Cr0Recorded, if_true, CrKept, State.setPc_cr, State.writeGpr_cr, State.setPc_xer,
        State.writeGpr_xer, State.recordCr0_xer]
      have e : s.recordCr0 true v = s.cr0Update v := rfl
      rw [e]
      refine ⟨?_, ?_, ?_, ?_, fun k hk h28 => ?_⟩ <;> rw [State.cr0Update_cr_getLsbD _ _ _ (by omega)]
      · rw [if_pos (by decide)]
      · rw [if_neg (by decide), if_pos (by decide)]
      · rw [if_neg (by decide), if_neg (by decide), if_pos (by decide)]
      · rw [if_neg (by decide), if_neg (by decide), if_neg (by decide), if_pos (by decide)]
      · rw [if_neg (by omega), if_neg (by omega), if_neg (by omega), if_neg (by omega), hcr]
  · simp [Advances, hpc]
  · exact ⟨by simp [hs.lr], by simp [hs.ctr], by simp [hs.usprg0], by simp [hs.sprg4], by simp [hs.sprg5],
      by simp [hs.sprg6], by simp [hs.sprg7], by simp [hs.fatal]⟩
  · exact MemSame.of_eq (by simp [hm])

/-- The same, as the answer of the shared end of these instructions (`finishArith`, `finishLogical`). The draw counter
may have moved too. -/
theorem RegEffect.of_complete {s0 s : State} {rc : Bool} {dest : Reg} {v : Word} {so ov ca : Bool}
    (he : s = { s0 with xer := s.xer, draws := s.draws }) (hx : XerBecomes s0 s so ov ca) :
    ∃ t, ((s.recordCr0 rc v).writeGpr dest v).complete = .next t ∧ RegEffect s0 t dest rc v so ov ca := by
  refine ⟨_, rfl, ?_⟩
  have hpc : s.pc = s0.pc := by rw [he]
  have h := RegEffect.of_finish (rc := rc) (dest := dest) (v := v) (by rw [he]) (by rw [he]) hpc
    (by rw [he]; exact ⟨rfl, rfl, rfl, rfl, rfl, rfl, rfl, rfl⟩) (by rw [he]) hx
  simpa using h

/-- A meaning that ends in `finishArith` without touching XER writes one register, and CR0 if `rc` is set. -/
theorem WordEffect.of_finishArith {i : Instr} {s : State} {dest : Reg} {v : Word} {rc : Bool}
    (h : exec i s = s.finishArith rc dest v) : WordEffect i s dest v rc := by
  unfold WordEffect Completes
  rw [h]
  exact RegEffect.of_complete rfl (XerBecomes.refl s)

/-- The same for `finishLogical`: the logical operations, the logical shifts and the rotates. -/
theorem WordEffect.of_finishLogical {i : Instr} {s : State} {dest : Reg} {v : Word} {rc : Bool}
    (h : exec i s = s.finishLogical rc dest v) : WordEffect i s dest v rc := by
  unfold WordEffect Completes
  rw [h]
  exact RegEffect.of_complete rfl (XerBecomes.refl s)

/-! ### The arithmetic pattern -/

/-- Everything the family pattern of 42_add_sub.md R170 does. -/
theorem addThree_effect (f : SumForm) (dest : Reg) (s1 s2 s3 : Word) (s : State) :
    ∃ t, addThree f dest s1 s2 s3 s = .next t ∧
      RegEffect s t dest f.rc (s1 + s2 + s3)
        (s.so || (f.oe && addOverflows (s1 + s2 + s3) s1 s2 s3))
        (if f.oe then addOverflows (s1 + s2 + s3) s1 s2 s3 else s.ov)
        (if f.carrying then addCarries s1 s2 s3 else s.ca) := by
  obtain ⟨carrying, oe, rc⟩ := f
  cases carrying <;> cases oe
  · simpa [addThree] using RegEffect.of_complete (s := s) rfl (XerBecomes.refl s)
  · exact RegEffect.of_complete (s := s.recordOverflow _) rfl (XerBecomes.recordOverflow s _)
  · simpa [addThree] using RegEffect.of_complete (s := s.setCa _) rfl (XerBecomes.setCa s (addCarries s1 s2 s3))
  · exact RegEffect.of_complete (s := (s.setCa _).recordOverflow _) rfl (XerBecomes.setCa_recordOverflow s _ _)

/-- The truncated sum of three words is the sum of their signed values modulo 2^32. -/
theorem sum_eq_ofInt (s1 s2 s3 : Word) : s1 + s2 + s3 = BitVec.ofInt 32 (s1.toInt + s2.toInt + s3.toInt) := by
  apply BitVec.eq_of_toInt_eq
  simp [BitVec.toInt_add, BitVec.toInt_ofInt]

/-- A word's signed value modulo 2^32 is the integer it was cut from exactly when that integer fits. -/
theorem toInt_ofInt_ne_iff (x : Int) :
    (x != (BitVec.ofInt 32 x).toInt) = decide (x < -2147483648 ∨ 2147483647 < x) := by
  rw [Bool.eq_iff_iff, bne_iff_ne, decide_eq_true_eq, BitVec.toInt_ofInt]
  have h1 := Int.bmod_def x (2 ^ 32)
  omega

/-- OVADD's test as a range test on the exact signed sum (40_helpers.md R131). -/
theorem addOverflows_eq (s1 s2 s3 : Word) :
    addOverflows (s1 + s2 + s3) s1 s2 s3 =
      decide (s1.toInt + s2.toInt + s3.toInt < -2147483648 ∨ 2147483647 < s1.toInt + s2.toInt + s3.toInt) := by
  rw [addOverflows, sum_eq_ofInt, toInt_ofInt_ne_iff]

/-- An instruction whose meaning is the family pattern has the arithmetic effect of the exact sum of its addends. -/
theorem ArithEffect.of_addThree {i : Instr} {s : State} {dest : Reg} {wide : Int} {ca oe rc : Bool} (carrying : Bool)
    (s1 s2 s3 : Word) (h : exec i s = addThree ⟨carrying, oe, rc⟩ dest s1 s2 s3 s)
    (hw : wide = s1.toInt + s2.toInt + s3.toInt) (hca : ca = if carrying then addCarries s1 s2 s3 else s.ca) :
    ArithEffect i s dest wide ca oe rc := by
  subst hw hca
  unfold ArithEffect Completes
  rw [h, ← sum_eq_ofInt, ← addOverflows_eq]
  exact addThree_effect _ _ _ _ _ _

end Sys2Proof.Machine
end

