-- ==== Sys2Proof/Laws/AddSub.lean ====
section
/-! SUPPORT. Add, subtract and negate as exact integer sums and differences: one lemma per shared sum of
Machine/AddSub.lean. -/

namespace Sys2Proof.Machine

/-! ### The addends as integers -/

theorem toInt_not (v : Word) : (~~~v).toInt = -v.toInt - 1 := by
  rw [BitVec.toInt_eq_toNat_cond, BitVec.toInt_eq_toNat_cond, BitVec.toNat_not]
  have := v.isLt
  split <;> split <;> omega

theorem toNat_not (v : Word) : (~~~v).toNat = 4294967295 - v.toNat := by
  simp [BitVec.toNat_not]

theorem State.carryIn_toInt (s : State) : s.carryIn.toInt = s.ca.toNat := by
  cases h : s.ca <;> simp [State.carryIn, h]

theorem State.carryIn_toNat (s : State) : s.carryIn.toNat = s.ca.toNat := by
  cases h : s.ca <;> simp [State.carryIn, h]

theorem word_zero_toInt : (0#32).toInt = 0 := by decide
theorem word_one_toInt : (1#32).toInt = 1 := by decide
theorem word_ones_toInt : (0xFFFFFFFF#32).toInt = -1 := by decide
theorem word_zero_toNat : (0#32).toNat = 0 := by decide
theorem word_one_toNat : (1#32).toNat = 1 := by decide
theorem word_ones_toNat : (0xFFFFFFFF#32).toNat = 4294967295 := by decide

/-- CAADD's test as a range test on the exact unsigned sum (40_helpers.md R132). -/
theorem addCarries_eq (a b c : Word) :
    addCarries a b c = decide (4294967296 ≤ a.toNat + b.toNat + c.toNat) := by
  rw [addCarries, decide_eq_decide]
  omega

theorem sext32_toInt (v : BitVec 16) : (sext32 v).toInt = v.toInt := by
  simp [sext32, BitVec.toInt_signExtend_of_le]

/-- The shifted immediate is the signed immediate times 2^16 (30_encoding.md R108). -/
theorem immShifted_toInt (v : BitVec 16) : (immShifted v).toInt = 65536 * v.toInt := by
  have h : (immShifted v).toNat = v.toNat * 65536 := by
    rw [immShifted, BitVec.toNat_append]
    simp [Nat.shiftLeft_eq]
  rw [BitVec.toInt_eq_toNat_cond, BitVec.toInt_eq_toNat_cond, h]
  have := v.isLt
  split <;> split <;> omega

/-- `add`, `addc` and their forms: the exact sum of the two registers (42_add_sub.md R172 to R179). -/
theorem ArithEffect.sumAdd {i : Instr} {s : State} {rD rA rB : Reg} {oe rc : Bool} (carrying : Bool)
    (h : exec i s = sumAdd ⟨carrying, oe, rc⟩ rD rA rB s) :
    ArithEffect i s rD ((s.readGpr rA).toInt + (s.readGpr rB).toInt)
      (if carrying then decide (4294967296 ≤ (s.readGpr rA).toNat + (s.readGpr rB).toNat) else s.ca) oe rc :=
  .of_addThree carrying _ _ _ h (by rw [word_zero_toInt, Int.add_zero])
    (by rw [addCarries_eq, word_zero_toNat, Nat.add_zero])

/-- `adde` and its forms (42_add_sub.md R180 to R183). -/
theorem ArithEffect.sumAdde {i : Instr} {s : State} {rD rA rB : Reg} {oe rc : Bool}
    (h : exec i s = sumAdde ⟨true, oe, rc⟩ rD rA rB s) :
    ArithEffect i s rD ((s.readGpr rA).toInt + (s.readGpr rB).toInt + s.ca.toNat)
      (decide (4294967296 ≤ (s.readGpr rA).toNat + (s.readGpr rB).toNat + s.ca.toNat)) oe rc :=
  .of_addThree true _ _ _ h (by rw [s.carryIn_toInt]) (by rw [if_pos rfl, addCarries_eq, s.carryIn_toNat])

/-- `addme` and its forms (42_add_sub.md R184 to R187). -/
theorem ArithEffect.sumAddme {i : Instr} {s : State} {rD rA : Reg} {oe rc : Bool}
    (h : exec i s = sumAddme ⟨true, oe, rc⟩ rD rA s) :
    ArithEffect i s rD ((s.readGpr rA).toInt + s.ca.toNat - 1)
      (decide (4294967296 ≤ (s.readGpr rA).toNat + s.ca.toNat + 4294967295)) oe rc :=
  .of_addThree true _ _ _ h (by rw [s.carryIn_toInt, word_ones_toInt]; rfl)
    (by rw [if_pos rfl, addCarries_eq, s.carryIn_toNat, word_ones_toNat])

/-- `addze` and its forms (42_add_sub.md R188 to R191). -/
theorem ArithEffect.sumAddze {i : Instr} {s : State} {rD rA : Reg} {oe rc : Bool}
    (h : exec i s = sumAddze ⟨true, oe, rc⟩ rD rA s) :
    ArithEffect i s rD ((s.readGpr rA).toInt + s.ca.toNat)
      (decide (4294967296 ≤ (s.readGpr rA).toNat + s.ca.toNat)) oe rc :=
  .of_addThree true _ _ _ h (by rw [s.carryIn_toInt, word_zero_toInt, Int.add_zero])
    (by rw [if_pos rfl, addCarries_eq, s.carryIn_toNat, word_zero_toNat, Nat.add_zero])

/-- `subf`, `subfc` and their forms: the exact difference (42_add_sub.md R192 to R199). -/
theorem ArithEffect.sumSubf {i : Instr} {s : State} {rD rA rB : Reg} {oe rc : Bool} (carrying : Bool)
    (h : exec i s = sumSubf ⟨carrying, oe, rc⟩ rD rA rB s) :
    ArithEffect i s rD ((s.readGpr rB).toInt - (s.readGpr rA).toInt)
      (if carrying then decide ((s.readGpr rA).toNat ≤ (s.readGpr rB).toNat) else s.ca) oe rc :=
  .of_addThree carrying _ _ _ h (by rw [toInt_not, word_one_toInt]; omega) (by
    have := (s.readGpr rA).isLt
    rw [addCarries_eq, toNat_not, word_one_toNat]
    congr 2
    simp only [eq_iff_iff]
    omega)

/-- `subfe` and its forms (42_add_sub.md R200 to R203). -/
theorem ArithEffect.sumSubfe {i : Instr} {s : State} {rD rA rB : Reg} {oe rc : Bool}
    (h : exec i s = sumSubfe ⟨true, oe, rc⟩ rD rA rB s) :
    ArithEffect i s rD ((s.readGpr rB).toInt - (s.readGpr rA).toInt - 1 + s.ca.toNat)
      (decide ((s.readGpr rA).toNat + 1 ≤ (s.readGpr rB).toNat + s.ca.toNat)) oe rc :=
  .of_addThree true _ _ _ h (by rw [toInt_not, s.carryIn_toInt]; omega) (by
    have := (s.readGpr rA).isLt
    rw [if_pos rfl, addCarries_eq, toNat_not, s.carryIn_toNat, decide_eq_decide]
    omega)

/-- `subfme` and its forms (42_add_sub.md R204 to R207). -/
theorem ArithEffect.sumSubfme {i : Instr} {s : State} {rD rA : Reg} {oe rc : Bool}
    (h : exec i s = sumSubfme ⟨true, oe, rc⟩ rD rA s) :
    ArithEffect i s rD (s.ca.toNat - (s.readGpr rA).toInt - 2)
      (decide (s.readGpr rA ≠ 0xFFFFFFFF#32 ∨ s.ca.toNat = 1)) oe rc :=
  .of_addThree true _ _ _ h (by rw [toInt_not, s.carryIn_toInt, word_ones_toInt]; omega) (by
    have := (s.readGpr rA).isLt
    have := s.ca.toNat_le
    rw [if_pos rfl, addCarries_eq, toNat_not, s.carryIn_toNat, word_ones_toNat, decide_eq_decide, ne_eq,
      ← BitVec.toNat_inj, word_ones_toNat]
    omega)

/-- `subfze` and its forms (42_add_sub.md R208 to R211). -/
theorem ArithEffect.sumSubfze {i : Instr} {s : State} {rD rA : Reg} {oe rc : Bool}
    (h : exec i s = sumSubfze ⟨true, oe, rc⟩ rD rA s) :
    ArithEffect i s rD (s.ca.toNat - (s.readGpr rA).toInt - 1)
      (decide (s.readGpr rA = 0#32 ∧ s.ca.toNat = 1)) oe rc :=
  .of_addThree true _ _ _ h (by rw [toInt_not, s.carryIn_toInt, word_zero_toInt]; omega) (by
    have := (s.readGpr rA).isLt
    have := s.ca.toNat_le
    rw [if_pos rfl, addCarries_eq, toNat_not, s.carryIn_toNat, word_zero_toNat, decide_eq_decide,
      ← BitVec.toNat_inj, word_zero_toNat]
    omega)

/-- `neg` and its forms (42_add_sub.md R212 to R215). -/
theorem ArithEffect.sumNeg {i : Instr} {s : State} {rD rA : Reg} {oe rc : Bool}
    (h : exec i s = sumNeg ⟨false, oe, rc⟩ rD rA s) : ArithEffect i s rD (-(s.readGpr rA).toInt) s.ca oe rc :=
  .of_addThree false _ _ _ h (by rw [toInt_not, word_one_toInt, word_zero_toInt]; omega) rfl

/-- An addition of a signed immediate, in any of the forms of 42_add_sub.md R216 to R219. -/
theorem ArithEffect.sumImm {i : Instr} {s : State} {rD : Reg} {rc : Bool} (carrying : Bool) (a imm : Word)
    (h : exec i s = addThree ⟨carrying, false, rc⟩ rD a imm 0#32 s) :
    ArithEffect i s rD (a.toInt + imm.toInt)
      (if carrying then decide (4294967296 ≤ a.toNat + imm.toNat) else s.ca) false rc :=
  .of_addThree carrying _ _ _ h (by rw [word_zero_toInt, Int.add_zero])
    (by rw [addCarries_eq, word_zero_toNat, Nat.add_zero])

end Sys2Proof.Machine
end

