-- ==== Sys2Proof/Laws/Control.lean ====
section
/-! SUPPORT. The condition register's moves, the branches and the special-purpose register map. -/

namespace Sys2Proof.Machine

/-! ### Condition register -/

/-- A move that ends by writing one CR bit: the whole effect (46_cr_logical.md R315). -/
theorem writeCrBit_effect (s : State) (i : CrBit) (b : Bool) :
    ∃ t, (s.writeCrBit i b).complete = .next t ∧ t.cr.getLsbD (31 - i.toNat) = b ∧
      CrEffect s t (fun k => k = 31 - i.toNat) ∧ t.xer = s.xer := by
  have h := fun k hk => s.writeCrBit_cr_getLsbD i b k hk
  refine ⟨_, rfl, (h _ (by omega)).trans (if_pos rfl),
    ⟨fun k hk hne => (h k hk).trans (if_neg hne), fun _ _ => rfl, rfl, ⟨rfl, rfl, rfl, rfl, rfl, rfl, rfl, rfl⟩,
      MemSame.of_eq rfl⟩, rfl⟩

/-- `CRBIT` reads one bit (40_helpers.md R141). -/
theorem State.crBit_eq (s : State) (i : CrBit) : s.crBit i = s.cr.getLsbD (31 - i.toNat) := rfl

/-- A CR field written with any four bits, XER apart: the frame of `mcrf` and `mcrxr`. -/
theorem writeCrField_cr (s : State) (n : CrField) (v : BitVec 4) :
    (∀ k, k < 4 → (s.writeCrField n v).cr.getLsbD (28 - 4 * n.toNat + k) = v.getLsbD k) ∧
      ∀ k, k < 32 → ¬ (28 - 4 * n.toNat ≤ k ∧ k < 28 - 4 * n.toNat + 4) →
        (s.writeCrField n v).cr.getLsbD k = s.cr.getLsbD k := by
  have hn : n.toNat < 8 := n.isLt
  refine ⟨fun k hk => ?_, fun k hk hout => ?_⟩
  · rw [State.writeCrField_cr_getLsbD _ _ _ _ (by omega), if_pos (by omega), Nat.add_sub_cancel_left]
  · rw [State.writeCrField_cr_getLsbD _ _ _ _ hk, if_neg (by omega)]

/-- The mask of `mtcrf` selects the four bits of every field whose CRM bit is set (30_encoding.md R114): CR bit `k` is
in field `7 - k / 4`, whose CRM bit is `k / 4`. -/
theorem crmMask_getLsbD (crm : BitVec 8) (k : Nat) (hk : k < 32) : (crmMask crm).getLsbD k = crm.getLsbD (k / 4) := by
  have step : ∀ (m : Word) (b : Bool) (j : Nat), j < 8 →
      (if b = true then m ||| (0xF#32 <<< (28 - 4 * j)) else m).getLsbD k =
        (m.getLsbD k || (b && decide (k / 4 = 7 - j))) := fun m b j hj => by
    cases b with
    | false => simp
    | true =>
      rw [if_pos rfl, BitVec.getLsbD_or, ones_shiftLeft_getLsbD _ 4 _ _ getLsbD_0xF hk, Bool.true_and]
      congr 1
      rw [← Bool.decide_and, decide_eq_decide]
      omega
  have hr : List.range 8 = [0, 1, 2, 3, 4, 5, 6, 7] := rfl
  unfold crmMask
  rw [hr]
  simp only [List.foldl_cons, List.foldl_nil]
  rw [step _ _ _ (by decide), step _ _ _ (by decide), step _ _ _ (by decide), step _ _ _ (by decide),
    step _ _ _ (by decide), step _ _ _ (by decide), step _ _ _ (by decide), step _ _ _ (by decide)]
  have h8 : k / 4 < 8 := by omega
  generalize k / 4 = q at h8
  interval_cases q <;> simp

/-! ### Branches -/

/-- Clearing the low two bits is rounding down to a multiple of 4 (41_branch.md R153). -/
theorem alignTarget_eq (x : Word) : alignTarget x = 4#32 * (x / 4#32) := by
  unfold alignTarget
  apply BitVec.eq_of_toNat_eq
  have h1 : (x &&& 0xFFFFFFFC#32).toNat = x.toNat / 4 * 4 := by
    have : x &&& 0xFFFFFFFC#32 = (x >>> 2) <<< 2 := by
      apply BitVec.eq_of_getLsbD_eq
      intro k hk
      have hm : (0xFFFFFFFC#32).getLsbD k = decide (2 ≤ k) := by revert k; decide
      rw [BitVec.getLsbD_and, hm, BitVec.getLsbD_shiftLeft, BitVec.getLsbD_ushiftRight]
      by_cases h : k < 2
      · have : ¬ 2 ≤ k := by omega
        simp [h, this]
      · have e : 2 + (k - 2) = k := by omega
        have : 2 ≤ k := by omega
        rw [e]; simp [h, hk, this]
    rw [this]; have := x.isLt; simp [Nat.shiftRight_eq_div_pow, Nat.shiftLeft_eq]; omega
  rw [h1]; have := x.isLt
  simp [BitVec.toNat_mul, BitVec.toNat_udiv]; omega


/-- `LI` is a signed number of words (30_encoding.md R111). -/
theorem dispLI_eq (li : BitVec 24) : dispLI li = BitVec.ofInt 32 (4 * li.toInt) := by
  apply BitVec.eq_of_toInt_eq
  have h : (li ++ 0#2).toNat = li.toNat * 4 := by rw [BitVec.toNat_append]; simp [Nat.shiftLeft_eq]
  rw [dispLI, sext32, BitVec.toInt_signExtend_of_le (by decide), BitVec.toInt_ofInt, BitVec.toInt_eq_toNat_cond,
    BitVec.toInt_eq_toNat_cond, h, Int.bmod_def]
  have := li.isLt
  split <;> split <;> split <;> omega

/-- `BD` is a signed number of words (30_encoding.md R112). -/
theorem dispBD_eq (bd : BitVec 14) : dispBD bd = BitVec.ofInt 32 (4 * bd.toInt) := by
  apply BitVec.eq_of_toInt_eq
  have h : (bd ++ 0#2).toNat = bd.toNat * 4 := by rw [BitVec.toNat_append]; simp [Nat.shiftLeft_eq]
  rw [dispBD, sext32, BitVec.toInt_signExtend_of_le (by decide), BitVec.toInt_ofInt, BitVec.toInt_eq_toNat_cond,
    BitVec.toInt_eq_toNat_cond, h, Int.bmod_def]
  have := bd.isLt
  split <;> split <;> split <;> omega

/-- `BRCOND`'s new CTR (40_helpers.md R138). -/
theorem branchCtr_eq (c : Word) (bo : BitVec 5) : branchCtr c bo = if bo.getLsbD 2 then c else c - 1#32 := by
  unfold branchCtr boDecrements; cases bo.getLsbD 2 <;> rfl

/-- `BRCOND`'s decision (40_helpers.md R138). -/
theorem State.branchTaken_eq (s : State) (bo : BitVec 5) (bi : CrBit) : s.branchTaken bo bi =
    ((bo.getLsbD 2 || (decide (branchCtr s.ctr bo ≠ 0#32) == !bo.getLsbD 1)) &&
      (bo.getLsbD 4 || (s.cr.getLsbD (31 - bi.toNat) == bo.getLsbD 3))) := by
  unfold State.branchTaken State.branchCondOk branchCtrOk
  rw [State.crBit_eq]
  congr 2
  cases bo.getLsbD 1 <;> by_cases h : branchCtr s.ctr bo = 0#32 <;> simp [h]

/-! ### Special-purpose registers -/

/-- `SPR_MAP` has seven numbers (10_state.md R32). -/
theorem sprOf_none (n : Nat) (h : n ∉ [8, 9, 256, 260, 261, 262, 263]) : sprOf n = none := by
  simp only [List.mem_cons, List.not_mem_nil, or_false, not_or] at h
  simp [sprOf, sprMap, List.lookup, h, beq_eq_false_iff_ne.mpr]
end Sys2Proof.Machine
end

