-- ==== Sys2Proof/Laws/Encoding.lean ====
section
/-! SUPPORT. Each format of the encoder, and each mask of the decode table, as arithmetic on numbers, so that a field
read from an encoded word and a row's match are linear arithmetic. -/

namespace Sys2Proof

theorem toNat_append_eq {v w : Nat} (x : BitVec v) (y : BitVec w) : (x ++ y).toNat = x.toNat * 2 ^ w + y.toNat := by
  rw [BitVec.toNat_append, Nat.shiftLeft_eq, Nat.mul_comm, ← Nat.two_pow_add_eq_or_of_lt y.isLt]

/-! ### The formats -/

theorem formI_toNat (li : BitVec 24) (aa lk : BitVec 1) :
    (formI li aa lk).toNat = 1207959552 + 4 * li.toNat + 2 * aa.toNat + lk.toNat := by
  unfold formI
  rw [toNat_append_eq, toNat_append_eq, toNat_append_eq]
  simp only [BitVec.toNat_ofNat]
  omega

theorem formB_toNat (bo : BitVec 5) (bi : CrBit) (bd : BitVec 14) (aa lk : BitVec 1) :
    (formB bo bi bd aa lk).toNat = 
      1073741824 + 2097152 * bo.toNat + 65536 * bi.toNat +
      4 * bd.toNat + 2 * aa.toNat + lk.toNat := by
  unfold formB
  rw [toNat_append_eq, toNat_append_eq, toNat_append_eq, toNat_append_eq, toNat_append_eq]
  simp only [BitVec.toNat_ofNat]
  omega

theorem formSC_toNat : formSC.toNat = 1140850688 + 2 := by decide

theorem formD_toNat (opcd : BitVec 6) (r rA : Reg) (imm : BitVec 16) :
    (formD opcd r rA imm).toNat = 
      67108864 * opcd.toNat + 2097152 * r.toNat +
      65536 * rA.toNat + imm.toNat := by
  unfold formD
  rw [toNat_append_eq, toNat_append_eq, toNat_append_eq]
  omega

theorem formDCmp_toNat (opcd : BitVec 6) (crfD : CrField) (l : BitVec 1) (rA : Reg) (imm : BitVec 16) :
    (formDCmp opcd crfD l rA imm).toNat = 
      67108864 * opcd.toNat + 8388608 * crfD.toNat + 2097152 * l.toNat +
      65536 * rA.toNat + imm.toNat := by
  unfold formDCmp
  rw [toNat_append_eq, toNat_append_eq, toNat_append_eq, toNat_append_eq, toNat_append_eq]
  simp only [BitVec.toNat_ofNat]
  omega

theorem formX_toNat (xo : BitVec 10) (r rA rB : BitVec 5) (rc : BitVec 1) :
    (formX xo r rA rB rc).toNat = 
      2080374784 + 2097152 * r.toNat + 65536 * rA.toNat +
      2048 * rB.toNat + 2 * xo.toNat + rc.toNat := by
  unfold formX
  rw [toNat_append_eq, toNat_append_eq, toNat_append_eq, toNat_append_eq, toNat_append_eq]
  simp only [BitVec.toNat_ofNat]
  omega

theorem formXCmp_toNat (xo : BitVec 10) (crfD : CrField) (l : BitVec 1) (rA rB : Reg) :
    (formXCmp xo crfD l rA rB).toNat = 
      2080374784 + 8388608 * crfD.toNat + 2097152 * l.toNat +
      65536 * rA.toNat + 2048 * rB.toNat + 2 * xo.toNat := by
  unfold formXCmp
  rw [toNat_append_eq, toNat_append_eq, toNat_append_eq, toNat_append_eq, toNat_append_eq,
    toNat_append_eq, toNat_append_eq]
  simp only [BitVec.toNat_ofNat]
  omega

theorem formXO_toNat (xo : BitVec 9) (rD rA rB : Reg) (oe rc : BitVec 1) :
    (formXO xo rD rA rB oe rc).toNat = 
      2080374784 + 2097152 * rD.toNat + 65536 * rA.toNat + 2048 * rB.toNat +
      1024 * oe.toNat + 2 * xo.toNat + rc.toNat := by
  unfold formXO
  rw [toNat_append_eq, toNat_append_eq, toNat_append_eq, toNat_append_eq, toNat_append_eq,
    toNat_append_eq]
  simp only [BitVec.toNat_ofNat]
  omega

theorem formXLb_toNat (xo : BitVec 10) (bo : BitVec 5) (bi : CrBit) (lk : BitVec 1) :
    (formXLb xo bo bi lk).toNat = 
      1275068416 + 2097152 * bo.toNat + 65536 * bi.toNat +
      2 * xo.toNat + lk.toNat := by
  unfold formXLb
  rw [toNat_append_eq, toNat_append_eq, toNat_append_eq, toNat_append_eq, toNat_append_eq]
  simp only [BitVec.toNat_ofNat]
  omega

theorem formXLcr_toNat (xo : BitVec 10) (crbD crbA crbB : CrBit) :
    (formXLcr xo crbD crbA crbB).toNat = 
      1275068416 + 2097152 * crbD.toNat + 65536 * crbA.toNat +
      2048 * crbB.toNat + 2 * xo.toNat := by
  unfold formXLcr
  rw [toNat_append_eq, toNat_append_eq, toNat_append_eq, toNat_append_eq, toNat_append_eq]
  simp only [BitVec.toNat_ofNat]
  omega

theorem formMcrf_toNat (crfD crfS : CrField) :
    (formMcrf crfD crfS).toNat = 1275068416 + 8388608 * crfD.toNat + 262144 * crfS.toNat := by
  unfold formMcrf
  rw [toNat_append_eq, toNat_append_eq, toNat_append_eq, toNat_append_eq, toNat_append_eq,
    toNat_append_eq]
  simp only [BitVec.toNat_ofNat]
  omega

theorem formSpr_toNat (xo : BitVec 10) (r : Reg) (n : Nat) :
    (formSpr xo r n).toNat = 
      2080374784 + 2097152 * r.toNat +
      2048 * (sprFieldOf n).toNat + 2 * xo.toNat := by
  unfold formSpr
  rw [toNat_append_eq, toNat_append_eq, toNat_append_eq, toNat_append_eq]
  simp only [BitVec.toNat_ofNat]
  omega

theorem formMtcrf_toNat (rS : Reg) (crm : BitVec 8) :
    (formMtcrf rS crm).toNat = 2080374784 + 2097152 * rS.toNat + 4096 * crm.toNat + 288 := by
  unfold formMtcrf
  rw [toNat_append_eq, toNat_append_eq, toNat_append_eq, toNat_append_eq, toNat_append_eq,
    toNat_append_eq]
  simp only [BitVec.toNat_ofNat]
  omega

theorem formMfcr_toNat (rD : Reg) :
    (formMfcr rD).toNat = 2080374784 + 2097152 * rD.toNat + 38 := by
  unfold formMfcr
  rw [toNat_append_eq, toNat_append_eq, toNat_append_eq, toNat_append_eq]
  simp only [BitVec.toNat_ofNat]
  omega

theorem formMcrxr_toNat (crfD : CrField) :
    (formMcrxr crfD).toNat = 2080374784 + 8388608 * crfD.toNat + 1024 := by
  unfold formMcrxr
  rw [toNat_append_eq, toNat_append_eq, toNat_append_eq, toNat_append_eq]
  simp only [BitVec.toNat_ofNat]
  omega

theorem formM_toNat (opcd : BitVec 6) (rS rA sh mb me : BitVec 5) (rc : BitVec 1) :
    (formM opcd rS rA sh mb me rc).toNat = 
      67108864 * opcd.toNat + 2097152 * rS.toNat + 65536 * rA.toNat + 2048 * sh.toNat +
      64 * mb.toNat + 2 * me.toNat + rc.toNat := by
  unfold formM
  rw [toNat_append_eq, toNat_append_eq, toNat_append_eq, toNat_append_eq, toNat_append_eq,
    toNat_append_eq]
  omega

/-! ### Fields and masks -/

/-- A field of a word, as a number. -/
theorem slice_toNat (w : Word) (lo n : Nat) : (w.extractLsb' lo n).toNat = w.toNat / 2 ^ lo % 2 ^ n := by
  rw [BitVec.extractLsb'_toNat, Nat.shiftRight_eq_div_pow]

/-- A mask of bits 31 to 26 and of bits `a` to `b - 1`: what a word keeps under it, as a number. -/
theorem and_mask_toNat (w m : Word) (a b : Nat) (hab : a ≤ b) (hb : b ≤ 26)
    (hm : ∀ k, k < 32 → m.getLsbD k = (decide (26 ≤ k) || (decide (a ≤ k) && decide (k < b)))) :
    (w &&& m).toNat = 2 ^ 26 * (w.toNat / 2 ^ 26) + 2 ^ a * (w.toNat / 2 ^ a % 2 ^ (b - a)) := by
  have hlt : 2 ^ a * (w.toNat / 2 ^ a % 2 ^ (b - a)) < 2 ^ 26 := by
    have h1 : w.toNat / 2 ^ a % 2 ^ (b - a) < 2 ^ (b - a) := Nat.mod_lt _ (Nat.two_pow_pos _)
    have h2 : 2 ^ a * 2 ^ (b - a) ≤ 2 ^ 26 := by
      rw [← Nat.pow_add]
      exact Nat.pow_le_pow_right (by decide) (by omega)
    exact Nat.lt_of_lt_of_le (Nat.mul_lt_mul_of_pos_left h1 (Nat.two_pow_pos a)) h2
  apply Nat.eq_of_testBit_eq
  intro k
  rw [Nat.testBit_two_pow_mul_add _ hlt, Nat.testBit_two_pow_mul, Nat.testBit_mod_two_pow,
    ← Nat.shiftRight_eq_div_pow, ← Nat.shiftRight_eq_div_pow, Nat.testBit_shiftRight, Nat.testBit_shiftRight]
  have hl : (w &&& m).toNat.testBit k = (w.toNat.testBit k && m.getLsbD k) := by
    rw [BitVec.toNat_and, Nat.testBit_and]; rfl
  rw [hl]
  by_cases h32 : k < 32
  · rw [hm k h32]
    by_cases h26 : k < 26
    · rw [if_pos h26]
      by_cases ha : a ≤ k
      · have e1 : a + (k - a) = k := by omega
        have e2 : k - a < b - a ↔ k < b := by omega
        have e3 : ¬ 26 ≤ k := by omega
        simp [ha, e1, e2, e3, Bool.and_comm]
      · have e3 : ¬ 26 ≤ k := by omega
        simp [ha, e3]
    · have e3 : 26 ≤ k := by omega
      have e1 : 26 + (k - 26) = k := by omega
      rw [if_neg h26, e1]
      simp [e3]
  · have hw : w.toNat.testBit k = false := w.getLsbD_of_ge k (by omega)
    have e1 : 26 + (k - 26) = k := by omega
    rw [if_neg (by omega), e1, hw, Bool.false_and]

theorem and_FC000000_toNat (w : Word) :
    (w &&& 0xFC000000#32).toNat = 67108864 * (w.toNat / 67108864) := by
  have h := and_mask_toNat w 0xFC000000#32 0 0 (by decide) (by decide) (by decide)
  rw [h]
  omega

theorem and_FC000001_toNat (w : Word) :
    (w &&& 0xFC000001#32).toNat = 67108864 * (w.toNat / 67108864) + w.toNat % 2 := by
  have h := and_mask_toNat w 0xFC000001#32 0 1 (by decide) (by decide) (by decide)
  rw [h]
  omega

theorem and_FC000002_toNat (w : Word) :
    (w &&& 0xFC000002#32).toNat = 67108864 * (w.toNat / 67108864) + 2 * (w.toNat / 2 % 2) := by
  have h := and_mask_toNat w 0xFC000002#32 1 2 (by decide) (by decide) (by decide)
  rw [h]
  omega

theorem and_FC000003_toNat (w : Word) :
    (w &&& 0xFC000003#32).toNat = 67108864 * (w.toNat / 67108864) + w.toNat % 4 := by
  have h := and_mask_toNat w 0xFC000003#32 0 2 (by decide) (by decide) (by decide)
  rw [h]
  omega

theorem and_FC0003FF_toNat (w : Word) :
    (w &&& 0xFC0003FF#32).toNat = 67108864 * (w.toNat / 67108864) + w.toNat % 1024 := by
  have h := and_mask_toNat w 0xFC0003FF#32 0 10 (by decide) (by decide) (by decide)
  rw [h]
  omega

theorem and_FC0007FE_toNat (w : Word) :
    (w &&& 0xFC0007FE#32).toNat = 67108864 * (w.toNat / 67108864) + 2 * (w.toNat / 2 % 1024) := by
  have h := and_mask_toNat w 0xFC0007FE#32 1 11 (by decide) (by decide) (by decide)
  rw [h]
  omega

theorem and_FC0007FF_toNat (w : Word) :
    (w &&& 0xFC0007FF#32).toNat = 67108864 * (w.toNat / 67108864) + w.toNat % 2048 := by
  have h := and_mask_toNat w 0xFC0007FF#32 0 11 (by decide) (by decide) (by decide)
  rw [h]
  omega

/-! ### The search of the table -/

/-- In a list of which no two elements satisfy `p`, the search finds any element that does. -/
theorem find?_of_pairwise {α : Type} (p : α → Bool) (l : List α) (x : α)
    (hl : l.Pairwise fun a b => ¬ (p a = true ∧ p b = true)) (hx : x ∈ l) (hp : p x = true) : l.find? p = some x := by
  induction l with
  | nil => simp at hx
  | cons a rest ih =>
    obtain ⟨ha, hrest⟩ := List.pairwise_cons.mp hl
    rcases List.mem_cons.mp hx with rfl | hx
    · rw [List.find?_cons, hp]
    · have : p a = false := by
        cases hpa : p a with
        | false => rfl
        | true => exact absurd ⟨hpa, hp⟩ (ha x hx)
      rw [List.find?_cons, this]
      exact ih hrest hx

/-- A word that some row matches, in a table without ambiguity, decodes to that row's instruction. -/
theorem decodeWord_of_row (w : Word) (row : DecodeRow)
    (hl : decodeTable.Pairwise fun a b => ¬ (a.matches w = true ∧ b.matches w = true)) (hr : row ∈ decodeTable)
    (hp : row.matches w = true) : decodeWord w = .ok (row.build w) := by
  unfold decodeWord
  rw [find?_of_pairwise (fun r : DecodeRow => r.matches w) decodeTable row hl hr hp]

/-- What the decoder accepts, some row of the table reads. -/
theorem row_of_decodeWord {w : Word} {i : Instr} (h : decodeWord w = .ok i) :
    ∃ row ∈ decodeTable, row.matches w = true ∧ row.build w = i := by
  unfold decodeWord at h
  split at h
  · rename_i row hf
    exact ⟨row, List.mem_of_find?_eq_some hf, by simpa using List.find?_some hf, by simpa using h⟩
  · simp at h

/-- What the decoder rejects, no row of the table matches. -/
theorem no_row_of_decodeWord {w : Word} {e : DecodeReject} (h : decodeWord w = .error e) :
    e = rejectReason w ∧ ∀ row ∈ decodeTable, row.matches w = false := by
  unfold decodeWord at h
  split at h
  · simp at h
  · rename_i hf
    exact ⟨by simpa using h.symm, fun row hr => by simpa using List.find?_eq_none.mp hf row hr⟩

/-- A word laid out as bytes and read back is the word (20_memory.md R61, R67). -/
theorem decodeBytes_bytesOfWord (w : Word) (rest : List Byte) :
    decodeBytes (bytesOfWord w ++ rest) = (decodeWord w).map (·, rest) := by
  have e : wordOfBytes (w.extractLsb' 24 8) (w.extractLsb' 16 8) (w.extractLsb' 8 8) (w.extractLsb' 0 8) = w := by
    apply BitVec.eq_of_toNat_eq
    have := w.isLt
    unfold wordOfBytes
    rw [toNat_append_eq, toNat_append_eq, toNat_append_eq]
    simp only [BitVec.extractLsb'_toNat, Nat.shiftRight_eq_div_pow]
    omega
  simp only [bytesOfWord, List.cons_append, List.nil_append, decodeBytes]
  rw [e]

end Sys2Proof
end

