-- ==== Sys2Proof/Laws/MulDivCmp.lean ====
section
/-! SUPPORT. Multiply, divide and compare: the exact products, the signed and unsigned divides with their undefined cases, and the
end of a compare. -/

namespace Sys2Proof.Machine

/-! ### Products -/

/-- The 64-bit signed product is exact. -/
theorem signedProduct_toInt (a b : Word) : (signedProduct a b).toInt = a.toInt * b.toInt := by
  have ha : a.toInt ≤ 2147483647 := by have := a.toInt_lt; omega
  have ha' : -2147483648 ≤ a.toInt := by have := a.le_toInt; omega
  have hb : b.toInt ≤ 2147483647 := by have := b.toInt_lt; omega
  have hb' : -2147483648 ≤ b.toInt := by have := b.le_toInt; omega
  have e : ∀ v : Word, (sext64 v).toInt = v.toInt := fun v => by simp [sext64, BitVec.toInt_signExtend_of_le]
  rw [signedProduct, BitVec.toInt_mul, e, e]
  have h1 : a.toInt * b.toInt ≤ 4611686018427387904 := by nlinarith
  have h2 : -4611686018427387904 ≤ a.toInt * b.toInt := by nlinarith
  rw [Int.bmod_def]
  omega

/-- The 64-bit unsigned product is exact. -/
theorem unsignedProduct_toNat (a b : Word) : (unsignedProduct a b).toNat = a.toNat * b.toNat := by
  have ha := a.isLt
  have hb := b.isLt
  have h : a.toNat * b.toNat < 2 ^ 64 := by nlinarith
  simp only [unsignedProduct, zext64, BitVec.toNat_mul, BitVec.toNat_setWidth]
  rw [Nat.mod_eq_of_lt (a := a.toNat) (by omega), Nat.mod_eq_of_lt (a := b.toNat) (by omega), Nat.mod_eq_of_lt h]

/-- The low word of the signed product is the product modulo 2^32. -/
theorem lowWord_signedProduct (a b : Word) : lowWord (signedProduct a b) = BitVec.ofInt 32 (a.toInt * b.toInt) := by
  apply BitVec.eq_of_toInt_eq
  rw [lowWord, BitVec.toInt_setWidth, BitVec.toInt_ofInt, ← signedProduct_toInt, BitVec.toInt_eq_toNat_bmod]
  simp [Int.bmod_bmod_of_dvd]

/-- The high word of the signed product is the floor of the product divided by 2^32. -/
theorem highWord_signedProduct (a b : Word) :
    highWord (signedProduct a b) = BitVec.ofInt 32 (a.toInt * b.toInt / 4294967296) := by
  rw [← signedProduct_toInt]
  generalize signedProduct a b = p
  apply BitVec.eq_of_toNat_eq
  rw [highWord, BitVec.toNat_setWidth, BitVec.toNat_ushiftRight, BitVec.toNat_ofInt, BitVec.toInt_eq_toNat_cond,
    Nat.shiftRight_eq_div_pow]
  have := p.isLt
  split <;> omega

/-- The high word of the unsigned product is the floor of the product divided by 2^32. -/
theorem highWord_unsignedProduct (a b : Word) :
    highWord (unsignedProduct a b) = BitVec.ofNat 32 (a.toNat * b.toNat / 4294967296) := by
  apply BitVec.eq_of_toNat_eq
  rw [highWord, BitVec.toNat_setWidth, BitVec.toNat_ushiftRight, unsignedProduct_toNat, BitVec.toNat_ofNat,
    Nat.shiftRight_eq_div_pow]

/-- OVMUL's test as a range test on the exact product (40_helpers.md R133). -/
theorem ovMul_test (a b : Word) :
    (signedProduct a b != ((signedProduct a b).setWidth 32).signExtend 64) =
      decide (a.toInt * b.toInt < -2147483648 ∨ 2147483647 < a.toInt * b.toInt) := by
  rw [← toInt_ofInt_ne_iff, ← lowWord_signedProduct, ← signedProduct_toInt, Bool.eq_iff_iff, bne_iff_ne, bne_iff_ne,
    ne_eq, ne_eq, ← BitVec.toInt_inj, BitVec.toInt_signExtend_of_le (by decide)]
  rfl

/-! ### Multiply and divide -/

/-- `finishArith` from a state that differs from the instruction's own in XER and the draw counter only. -/
theorem finishArith_effect {s0 s : State} {rc : Bool} {dest : Reg} {v : Word} {so ov ca : Bool}
    (he : s = { s0 with xer := s.xer, draws := s.draws }) (hx : XerBecomes s0 s so ov ca) :
    ∃ t, s.finishArith rc dest v = .next t ∧ RegEffect s0 t dest rc v so ov ca :=
  RegEffect.of_complete he hx

/-- `mullw` and its forms (43_mul_div_cmp.md R233 to R236). -/
theorem ArithEffect.mulLow {i : Instr} {s : State} {rD rA rB : Reg} {oe rc : Bool}
    (h : exec i s = mulLow oe rc rD rA rB s) :
    ArithEffect i s rD ((s.readGpr rA).toInt * (s.readGpr rB).toInt) s.ca oe rc := by
  unfold ArithEffect Completes
  rw [h, Machine.mulLow, lowWord_signedProduct, ← ovMul_test]
  cases oe
  · simpa using finishArith_effect (s := s) rfl (XerBecomes.refl s)
  · exact finishArith_effect rfl (XerBecomes.recordOverflow s _)

/-- A product by the family's end without overflow recording, which leaves XER (`mulli`, 43_mul_div_cmp.md R241). -/
theorem ArithEffect.finishLowWord {i : Instr} {s : State} {rD : Reg} {rc : Bool} {a b : Word}
    (h : exec i s = s.finishArith rc rD (lowWord (signedProduct a b))) :
    ArithEffect i s rD (a.toInt * b.toInt) s.ca false rc := by
  unfold ArithEffect Completes
  rw [h, lowWord_signedProduct]
  simpa using finishArith_effect (s := s) rfl (XerBecomes.refl s)

/-- Everything a signed divide does (43_mul_div_cmp.md R231, R242 to R245). -/
theorem divideSigned_effect (form : Config.DivideForm) (oe rc : Bool) (rD rA rB : Reg) (s : State) :
    ∃ t, divideSigned form oe rc rD rA rB s = .next t ∧
      RegEffect s t rD rc
        (if divSignedUndefined (s.readGpr rA) (s.readGpr rB) then
          Config.unspecified32 form s.draws (s.readGpr rA) (s.readGpr rB)
        else quotientSigned (s.readGpr rA) (s.readGpr rB))
        (s.so || (oe && ovDivSigned form s.draws (s.readGpr rA) (s.readGpr rB)))
        (if oe then ovDivSigned form s.draws (s.readGpr rA) (s.readGpr rB) else s.ov) s.ca := by
  unfold divideSigned
  dsimp only
  generalize divSignedUndefined (s.readGpr rA) (s.readGpr rB) = undef
  cases oe <;> cases undef
  · simpa using finishArith_effect (s := s) rfl (XerBecomes.refl s)
  · simpa using finishArith_effect (s := s.draw) rfl (XerBecomes.refl s)
  · exact finishArith_effect rfl (XerBecomes.recordOverflow s _)
  · exact finishArith_effect (s := (s.recordOverflow _).draw) rfl (XerBecomes.recordOverflow s _)

/-- Everything an unsigned divide does (43_mul_div_cmp.md R231, R246 to R249). -/
theorem divideUnsigned_effect (form : Config.DivideForm) (oe rc : Bool) (rD rA rB : Reg) (s : State) :
    ∃ t, divideUnsigned form oe rc rD rA rB s = .next t ∧
      RegEffect s t rD rc
        (if s.readGpr rB == 0#32 then
          Config.unspecified32 form s.draws (s.readGpr rA) (s.readGpr rB)
        else quotientUnsigned (s.readGpr rA) (s.readGpr rB))
        (s.so || (oe && ovDivUnsigned form s.draws (s.readGpr rA) (s.readGpr rB)))
        (if oe then ovDivUnsigned form s.draws (s.readGpr rA) (s.readGpr rB) else s.ov) s.ca := by
  unfold divideUnsigned
  dsimp only
  generalize (s.readGpr rB == 0#32) = undef
  cases oe <;> cases undef
  · simpa using finishArith_effect (s := s) rfl (XerBecomes.refl s)
  · simpa using finishArith_effect (s := s.draw) rfl (XerBecomes.refl s)
  · exact finishArith_effect rfl (XerBecomes.recordOverflow s _)
  · exact finishArith_effect (s := (s.recordOverflow _).draw) rfl (XerBecomes.recordOverflow s _)

/-! ### Compare -/

/-- Everything the end of a compare does (43_mul_div_cmp.md R232). -/
theorem writeCompare_effect (s : State) (n : CrField) (lt gt : Bool) :
    ∃ t, (s.writeCompare n lt gt).complete = .next t ∧
      t.cr.getLsbD (28 - 4 * n.toNat + 3) = lt ∧ t.cr.getLsbD (28 - 4 * n.toNat + 2) = gt ∧
      t.cr.getLsbD (28 - 4 * n.toNat + 1) = (!lt && !gt) ∧ t.cr.getLsbD (28 - 4 * n.toNat) = s.so ∧
      CrEffect s t (fun k => 28 - 4 * n.toNat ≤ k ∧ k < 28 - 4 * n.toNat + 4) ∧ t.xer = s.xer := by
  have hn : n.toNat < 8 := n.isLt
  have hcr : ∀ k, k < 32 → (s.writeCompare n lt gt).cr.getLsbD k =
      if 28 - 4 * n.toNat ≤ k ∧ k < 32 - 4 * n.toNat then
        (crFieldOf lt gt (!lt && !gt) s.so).getLsbD (k - (28 - 4 * n.toNat)) else s.cr.getLsbD k :=
    fun k hk => s.writeCrField_cr_getLsbD n _ k hk
  have e : ∀ j, j < 4 → (s.writeCompare n lt gt).cr.getLsbD (28 - 4 * n.toNat + j) =
      (crFieldOf lt gt (!lt && !gt) s.so).getLsbD j := fun j hj => by
    rw [hcr _ (by omega), if_pos (by omega), Nat.add_sub_cancel_left]
  refine ⟨_, rfl, ?_, ?_, ?_, ?_, ⟨fun k hk hout => ?_, fun _ _ => rfl, rfl, ?_, MemSame.of_eq rfl⟩, rfl⟩
  · exact (e 3 (by decide)).trans (crFieldOf_three ..)
  · exact (e 2 (by decide)).trans (crFieldOf_two ..)
  · exact (e 1 (by decide)).trans (crFieldOf_one ..)
  · exact (e 0 (by decide)).trans (crFieldOf_zero ..)
  · exact (hcr k hk).trans (if_neg (by omega))
  · exact ⟨rfl, rfl, rfl, rfl, rfl, rfl, rfl, rfl⟩

end Sys2Proof.Machine
end

