-- ==== Sys2Proof/Laws/LogicalShift.lean ====
section
/-! SUPPORT. Logical operations, shifts and rotates: the immediates and extensions bit by bit, and the rotate-and-mask shifts of
45_shift_rotate.md as ordinary shifts. -/

namespace Sys2Proof.Machine

/-! ### Immediates and extensions, bit by bit -/

theorem zext32_getLsbD (v : BitVec 16) (k : Nat) (hk : k < 32) : (zext32 v).getLsbD k = v.getLsbD k := by
  simp [zext32, hk]

theorem immShifted_getLsbD (v : BitVec 16) (k : Nat) :
    (immShifted v).getLsbD k = (decide (16 ≤ k) && v.getLsbD (k - 16)) := by
  rw [immShifted, BitVec.getLsbD_append]
  by_cases h : k < 16
  · have : ¬ 16 ≤ k := by omega
    simp [h, this]
  · have : 16 ≤ k := by omega
    simp [h, this]

/-- Sign extension of the low byte: the byte read as a signed number (44_logical.md R283). -/
theorem sext32_low_byte (v : Word) :
    sext32 (v.setWidth 8) =
      BitVec.ofInt 32 (if v.toNat % 256 < 128 then (v.toNat % 256 : Int) else (v.toNat % 256 : Int) - 256) := by
  apply BitVec.eq_of_toInt_eq
  rw [sext32, BitVec.toInt_signExtend_of_le (by decide), BitVec.toInt_ofInt, BitVec.toInt_eq_toNat_cond,
    BitVec.toNat_setWidth, Int.bmod_def]
  split <;> split <;> omega

/-- Sign extension of the low halfword (44_logical.md R285). -/
theorem sext32_low_half (v : Word) :
    sext32 (v.setWidth 16) =
      BitVec.ofInt 32 (if v.toNat % 65536 < 32768 then (v.toNat % 65536 : Int)
        else (v.toNat % 65536 : Int) - 65536) := by
  apply BitVec.eq_of_toInt_eq
  rw [sext32, BitVec.toInt_signExtend_of_le (by decide), BitVec.toInt_ofInt, BitVec.toInt_eq_toNat_cond,
    BitVec.toNat_setWidth, Int.bmod_def]
  split <;> split <;> omega

/-! ### Shifts -/

/-- A mask from `start` to the last bit. -/
theorem mask_to_end_getLsbD (start : BitVec 5) (k : Nat) (hk : k < 32) :
    (mask start 31#5).getLsbD k = decide (start.toNat ≤ 31 - k) := by
  have h1 : start.toNat ≤ (31#5).toNat := by have := start.isLt; simp; omega
  have h2 : 31 - k ≤ (31#5).toNat := Nat.sub_le 31 k
  rw [mask_getLsbD _ _ _ hk, if_pos h1]
  simp only [h2, and_true]

theorem getLsbD_five_eq (n : BitVec 6) : n.getLsbD 5 = decide (32 ≤ n.toNat) := by
  revert n; decide

theorem rightAmount_toNat (n : BitVec 5) : (rightAmount n).toNat = (32 - n.toNat) % 32 := by
  revert n; decide

/-- The rotate-and-mask left shift is a shift by the 6-bit amount (45_shift_rotate.md R296). -/
theorem shiftLeftResult_eq (v : Word) (n : BitVec 6) : shiftLeftResult v n = v <<< n.toNat := by
  unfold shiftLeftResult
  rw [getLsbD_five_eq]
  split
  · rename_i h
    exact (BitVec.shiftLeft_eq_zero (by simpa using h)).symm
  · rename_i h
    have h : n.toNat < 32 := by simpa using h
    have e1 : (n.setWidth 5).toNat = n.toNat := by rw [BitVec.toNat_setWidth]; omega
    have e2 : (31#5 - n.setWidth 5).toNat = 31 - n.toNat := by rw [BitVec.toNat_sub, e1]; simp; omega
    apply BitVec.eq_of_getLsbD_eq
    intro k hk
    rw [BitVec.getLsbD_and, rotl32_getLsbD _ _ _ hk, mask_getLsbD _ _ _ hk, BitVec.getLsbD_shiftLeft, e1, e2]
    by_cases hkn : k < n.toNat
    · have : ¬ 31 - k ≤ 31 - n.toNat := by omega
      simp [hkn, this]
    · have h1 : 31 - k ≤ 31 - n.toNat := by omega
      have h2 : (k + (32 - n.toNat)) % 32 = k - n.toNat := by omega
      simp [hkn, h1, h2, hk]

/-- The rotate-and-mask right shift is a shift by the 6-bit amount (45_shift_rotate.md R298). -/
theorem shiftRightResult_eq (v : Word) (n : BitVec 6) : shiftRightResult v n = v >>> n.toNat := by
  unfold shiftRightResult
  rw [getLsbD_five_eq]
  split
  · rename_i h
    exact (BitVec.ushiftRight_eq_zero (by simpa using h)).symm
  · rename_i h
    have h : n.toNat < 32 := by simpa using h
    have e1 : (n.setWidth 5).toNat = n.toNat := by rw [BitVec.toNat_setWidth]; omega
    apply BitVec.eq_of_getLsbD_eq
    intro k hk
    rw [BitVec.getLsbD_and, rotl32_getLsbD _ _ _ hk, mask_to_end_getLsbD _ _ hk, BitVec.getLsbD_ushiftRight,
      rightAmount_toNat, e1]
    by_cases hkn : n.toNat ≤ 31 - k
    · have h2 : (k + (32 - (32 - n.toNat) % 32)) % 32 = n.toNat + k := by omega
      simp [hkn, h2]
    · have : v.getLsbD (n.toNat + k) = false := BitVec.getLsbD_of_ge _ _ (by omega)
      simp [hkn, this]

/-- The algebraic shift's value is an arithmetic shift by the 6-bit amount (45_shift_rotate.md R300). -/
theorem shiftAlgebraicResult_eq (v : Word) (n : BitVec 6) : shiftAlgebraicResult v n = v.sshiftRight n.toNat := by
  apply BitVec.eq_of_getLsbD_eq
  intro k hk
  rw [BitVec.getLsbD_sshiftRight]
  unfold shiftAlgebraicResult
  rw [getLsbD_five_eq]
  have hk' : ¬ 32 ≤ k := by omega
  split
  · rename_i h
    have h : ¬ n.toNat + k < 32 := by simp at h; omega
    rw [replicateBit_getLsbD]
    simp [h, hk, hk']
  · rename_i h
    have h : n.toNat < 32 := by simpa using h
    have e1 : (n.setWidth 5).toNat = n.toNat := by rw [BitVec.toNat_setWidth]; omega
    rw [insertUnder_getLsbD _ _ _ _ hk, rotl32_getLsbD _ _ _ hk, mask_to_end_getLsbD _ _ hk, rightAmount_toNat, e1,
      replicateBit_getLsbD]
    by_cases hkn : n.toNat ≤ 31 - k
    · have h2 : (k + (32 - (32 - n.toNat) % 32)) % 32 = n.toNat + k := by omega
      have h3 : n.toNat + k < 32 := by omega
      rw [if_pos (by simp [hkn]), h2]
      simp [h3, hk']
    · have h3 : ¬ n.toNat + k < 32 := by omega
      rw [if_neg (by simp [hkn])]
      simp [h3, hk, hk']

/-- Some bit below `n` is set exactly when the number is no multiple of 2^n. -/
theorem exists_low_bit (v : Word) (n : Nat) :
    (∃ k, k < n ∧ v.getLsbD k = true) ↔ v.toNat % 2 ^ n ≠ 0 := by
  have h : ∀ k, (v.toNat % 2 ^ n).testBit k = (decide (k < n) && v.getLsbD k) := fun k => by
    rw [Nat.testBit_mod_two_pow]; rfl
  constructor
  · rintro ⟨k, hk, hb⟩ e
    have := h k
    rw [e] at this
    simp [hk, hb] at this
  · intro hne
    obtain ⟨k, hk⟩ := Nat.exists_testBit_of_ne_zero hne
    rw [h k] at hk
    exact ⟨k, by simpa using hk⟩

/-- The algebraic shift's carry: the value is negative and a bit shifted out is 1 (45_shift_rotate.md R300). -/
theorem shiftAlgebraicCarry_eq (v : Word) (n : BitVec 6) :
    shiftAlgebraicCarry v n = (decide (v.toInt < 0) && decide (v.toNat % 2 ^ n.toNat ≠ 0)) := by
  unfold shiftAlgebraicCarry
  rw [getLsbD_five_eq, ← msb_eq_decide_neg]
  split
  · rename_i h
    have h : 32 ≤ n.toNat := by simpa using h
    have : v.toNat % 2 ^ n.toNat = v.toNat :=
      Nat.mod_eq_of_lt (Nat.lt_of_lt_of_le v.isLt (Nat.pow_le_pow_right (by decide) h))
    rw [this]
    cases hm : v.msb with
    | false => rfl
    | true =>
      have := BitVec.toNat_ge_of_msb_true hm
      have : v.toNat ≠ 0 := by omega
      simp [this]
  · rename_i h
    have h : n.toNat < 32 := by simpa using h
    have e1 : (n.setWidth 5).toNat = n.toNat := by rw [BitVec.toNat_setWidth]; omega
    congr 1
    rw [Bool.eq_iff_iff, bne_iff_ne, decide_eq_true_eq, ← exists_low_bit]
    have bit : ∀ k, k < 32 → (rotl32 v (rightAmount (n.setWidth 5)) &&& ~~~mask (n.setWidth 5) 31#5).getLsbD k =
        (v.getLsbD ((k + n.toNat) % 32) && decide (31 - k < n.toNat)) := fun k hk => by
      have h2 : (k + (32 - (32 - n.toNat) % 32)) % 32 = (k + n.toNat) % 32 := by omega
      rw [BitVec.getLsbD_and, BitVec.getLsbD_not, rotl32_getLsbD _ _ _ hk, mask_to_end_getLsbD _ _ hk,
        rightAmount_toNat, e1, h2]
      simp only [hk, decide_true, Bool.true_and, ← decide_not, Nat.not_le]
    constructor
    · intro hne
      by_contra hno
      apply hne
      apply BitVec.eq_of_getLsbD_eq
      intro k hk
      rw [bit k hk, BitVec.getLsbD_zero]
      by_cases hkn : 31 - k < n.toNat
      · have hf : ¬ v.getLsbD ((k + n.toNat) % 32) = true := fun hb => hno ⟨_, by omega, hb⟩
        simp [hf]
      · simp [hkn]
    · rintro ⟨k, hk, hb⟩ e
      have hbit := bit ((k + (32 - n.toNat)) % 32) (by omega)
      have h2 : ((k + (32 - n.toNat)) % 32 + n.toNat) % 32 = k := by omega
      have h3 : 31 - (k + (32 - n.toNat)) % 32 < n.toNat := by omega
      rw [e, h2, hb] at hbit
      simp [h3] at hbit

/-- Everything an algebraic shift does. -/
theorem shiftAlgebraic_effect (rc : Bool) (rA rS : Reg) (n : BitVec 6) (s : State) :
    ∃ t, shiftAlgebraic rc rA rS n s = .next t ∧
      RegEffect s t rA rc ((s.readGpr rS).sshiftRight n.toNat) s.so s.ov
        (decide ((s.readGpr rS).toInt < 0) && decide ((s.readGpr rS).toNat % 2 ^ n.toNat ≠ 0)) := by
  rw [← shiftAlgebraicCarry_eq, ← shiftAlgebraicResult_eq]
  exact RegEffect.of_complete rfl (XerBecomes.setCa s _)

end Sys2Proof.Machine
end

