-- ==== Sys2Proof/Laws/Step.lean ====
section
/-! SUPPORT. What one step can do, said once: the halted core, the misaligned `pc`, the undecoded word, the decoded
instruction. -/

namespace Sys2Proof.Machine

/-- Every case of the step (00_scope.md R12): a halted core stays as it is (60_exceptions.md R403); a misaligned `pc`
is refused; a word that matches no instruction halts the core (30_encoding.md R120); any other word is executed. -/
theorem step_cases (s : State) :
    (∃ c, s.fatal = some c ∧ step s = .next s) ∨
      (s.fatal = none ∧ s.pcAligned = false ∧ step s = .refused .misalignedPc) ∨
      (∃ e, s.fatal = none ∧ s.pcAligned = true ∧ decodeWord s.fetch = .error e ∧
        step s = .next (s.fatalStop .undecoded)) ∨
      ∃ i, s.fatal = none ∧ s.pcAligned = true ∧ decodeWord s.fetch = .ok i ∧ step s = exec i s := by
  unfold step State.cycle
  cases hf : s.fatal with
  | some c => exact .inl ⟨c, rfl, rfl⟩
  | none =>
    cases hp : s.pcAligned with
    | false => exact .inr (.inl ⟨rfl, rfl, rfl⟩)
    | true =>
      cases hd : decodeWord s.fetch with
      | error e => exact .inr (.inr (.inl ⟨e, rfl, rfl, rfl, rfl⟩))
      | ok i => exact .inr (.inr (.inr ⟨i, rfl, rfl, rfl, rfl⟩))

/-- The same, read from the next state: what a step that answers `next t` was. -/
theorem step_next_cases {s t : State} (h : step s = .next t) :
    (∃ c, s.fatal = some c ∧ t = s) ∨
      (∃ e, s.fatal = none ∧ s.pcAligned = true ∧ decodeWord s.fetch = .error e ∧ t = s.fatalStop .undecoded) ∨
      ∃ i, s.fatal = none ∧ s.pcAligned = true ∧ decodeWord s.fetch = .ok i ∧ exec i s = .next t := by
  rcases step_cases s with ⟨c, hf, e⟩ | ⟨_, _, e⟩ | ⟨err, hf, hp, hd, e⟩ | ⟨i, hf, hp, hd, e⟩
  · exact .inl ⟨c, hf, Host.Outcome.next.inj (h.symm.trans e)⟩
  · exact absurd (h.symm.trans e) (by simp)
  · exact .inr (.inl ⟨err, hf, hp, hd, Host.Outcome.next.inj (h.symm.trans e)⟩)
  · exact .inr (.inr ⟨i, hf, hp, hd, e ▸ h⟩)

theorem State.pcAligned_iff (s : State) : s.pcAligned = true ↔ s.pc.toNat % 4 = 0 := by
  simp [State.pcAligned]

/-- The fetched word, as the four bytes at `pc` (20_memory.md R67). -/
theorem State.fetch_eq (s : State) :
    s.fetch = wordOfBytes (s.mem.readByte s.pc) (s.mem.readByte (s.pc + 1#32)) (s.mem.readByte (s.pc + 2#32))
      (s.mem.readByte (s.pc + 3#32)) := rfl

end Sys2Proof.Machine
end

