-- ==== Sys2Proof/Laws/Transfer.lean ====
section
/-! SUPPORT. Loads and stores: the bytes of a word, what the wide accesses read and write byte by byte, the multiple and string
transfers. -/

namespace Sys2Proof.Machine

/-! ### Bytes of a word -/

/-- Byte `j` of a word, counted from the most significant, as a number. -/
theorem byteOf_eq (v : Word) (j : Nat) (hj : j < 4) : byteOf v j = BitVec.ofNat 8 (v.toNat / 256 ^ (3 - j)) := by
  apply BitVec.eq_of_toNat_eq
  have h : 2 ^ (24 - 8 * j) = 256 ^ (3 - j) := by
    rw [show (256 : Nat) = 2 ^ 8 from rfl, ← Nat.pow_mul, show 8 * (3 - j) = 24 - 8 * j by omega]
  rw [byteOf, BitVec.toNat_setWidth, BitVec.toNat_ushiftRight, BitVec.toNat_ofNat, Nat.shiftRight_eq_div_pow, h]

/-- A word is known by its four bytes. -/
theorem eq_of_byteOf_eq {v w : Word} (h : ∀ j, j < 4 → byteOf v j = byteOf w j) : v = w := by
  apply BitVec.eq_of_getLsbD_eq
  intro k hk
  have e := congrArg (fun b => b.getLsbD (k % 8)) (h (3 - k / 8) (by omega))
  simp only [byteOf_getLsbD _ _ _ (Nat.mod_lt k (by decide : 8 > 0))] at e
  rwa [show 24 - 8 * (3 - k / 8) + k % 8 = k by omega] at e

/-- Byte `i` of a word with byte `j` replaced. -/
theorem byteOf_setByte (v : Word) (b : Byte) (i j : Nat) (hi : i < 4) (hj : j < 4) :
    byteOf (setByte v j b) i = if i = j then b else byteOf v i := by
  apply BitVec.eq_of_getLsbD_eq
  intro k hk
  rw [byteOf_getLsbD _ _ _ hk, setByte_getLsbD _ _ _ _ hj (by omega)]
  by_cases h : i = j
  · subst h; rw [if_pos (by omega), if_pos rfl, Nat.add_sub_cancel_left]
  · rw [if_neg (by omega), if_neg h, byteOf_getLsbD _ _ _ hk]

theorem byteOf_zero (j : Nat) : byteOf 0#32 j = 0#8 := by simp [byteOf]

/-! ### What the wide reads give, as numbers -/

theorem Memory.readHalf_toNat (m : Memory) (a : Word) :
    (m.readHalf a).toNat = 256 * (m.readByte a).toNat + (m.readByte (a + 1#32)).toNat := by
  change (m.readByte a ++ m.readByte (a + 1#32)).toNat = _
  rw [BitVec.toNat_append, Nat.shiftLeft_eq, Nat.mul_comm, ← Nat.two_pow_add_eq_or_of_lt (m.readByte (a + 1#32)).isLt]

theorem Memory.readHalfRev_toNat (m : Memory) (a : Word) :
    (m.readHalfRev a).toNat = (m.readByte a).toNat + 256 * (m.readByte (a + 1#32)).toNat := by
  change (m.readByte (a + 1#32) ++ m.readByte a).toNat = _
  rw [BitVec.toNat_append, Nat.shiftLeft_eq, Nat.mul_comm, ← Nat.two_pow_add_eq_or_of_lt (m.readByte a).isLt,
    Nat.add_comm]

theorem toNat_append4 (b0 b1 b2 b3 : Byte) :
    (b0 ++ b1 ++ b2 ++ b3).toNat = 16777216 * b0.toNat + 65536 * b1.toNat + 256 * b2.toNat + b3.toNat := by
  have h1 := b1.isLt
  have h2 := b2.isLt
  have h3 := b3.isLt
  rw [BitVec.toNat_append, BitVec.toNat_append, BitVec.toNat_append]
  simp only [Nat.shiftLeft_eq]
  rw [Nat.mul_comm _ (2 ^ 8), ← Nat.two_pow_add_eq_or_of_lt h3, Nat.mul_comm _ (2 ^ 8), ← Nat.two_pow_add_eq_or_of_lt h2,
    Nat.mul_comm _ (2 ^ 8), ← Nat.two_pow_add_eq_or_of_lt h1]
  omega

theorem Memory.readWord_eq (m : Memory) (a : Word) :
    m.readWord a = BitVec.ofNat 32 (16777216 * (m.readByte a).toNat + 65536 * (m.readByte (a + 1#32)).toNat +
      256 * (m.readByte (a + 2#32)).toNat + (m.readByte (a + 3#32)).toNat) := by
  rw [← toNat_append4, BitVec.ofNat_toNat, BitVec.setWidth_eq]
  rfl

theorem Memory.readWordRev_eq (m : Memory) (a : Word) :
    m.readWordRev a = BitVec.ofNat 32 ((m.readByte a).toNat + 256 * (m.readByte (a + 1#32)).toNat +
      65536 * (m.readByte (a + 2#32)).toNat + 16777216 * (m.readByte (a + 3#32)).toNat) := by
  have e : m.readWordRev a =
      m.readByte (a + 3#32) ++ m.readByte (a + 2#32) ++ m.readByte (a + 1#32) ++ m.readByte a := rfl
  have h := toNat_append4 (m.readByte (a + 3#32)) (m.readByte (a + 2#32)) (m.readByte (a + 1#32)) (m.readByte a)
  rw [e]
  apply BitVec.eq_of_toNat_eq
  have h0 := (m.readByte a).isLt
  have h1 := (m.readByte (a + 1#32)).isLt
  have h2 := (m.readByte (a + 2#32)).isLt
  have h3 := (m.readByte (a + 3#32)).isLt
  rw [h, BitVec.toNat_ofNat]
  omega

/-! ### Loads -/

/-- The bytes of a word read from memory (20_memory.md R62). -/
theorem Memory.byteOf_readWord (m : Memory) (a : Word) (j : Nat) (hj : j < 4) :
    byteOf (m.readWord a) j = m.readByte (a + BitVec.ofNat 32 j) := by
  have e : m.readWord a =
      m.readByte a ++ m.readByte (a + 1#32) ++ m.readByte (a + 2#32) ++ m.readByte (a + 3#32) := rfl
  apply BitVec.eq_of_toNat_eq
  have h0 := (m.readByte a).isLt
  have h1 := (m.readByte (a + 1#32)).isLt
  have h2 := (m.readByte (a + 2#32)).isLt
  have h3 := (m.readByte (a + 3#32)).isLt
  rw [byteOf_eq _ _ hj, e, toNat_append4, BitVec.toNat_ofNat]
  interval_cases j
  · rw [show a + BitVec.ofNat 32 0 = a by simp]; omega
  · omega
  · omega
  · omega

/-- Everything a load without update does. -/
theorem loadPlain_effect (s : State) (rD : Reg) (v : Word) :
    ∃ t, loadPlain rD v s = .next t ∧ t.readGpr rD = v ∧ LoadFrame s t (· = rD) := by
  refine ⟨_, rfl, s.readGpr_writeGpr_same rD v, ⟨fun r hr => ?_, rfl, rfl, rfl,
    ⟨rfl, rfl, rfl, rfl, rfl, rfl, rfl, rfl⟩, MemSame.of_eq rfl⟩⟩
  exact s.readGpr_writeGpr_of_ne v hr

/-- Everything a load with update does (47_load.md R331). -/
theorem loadUpdate_effect (s : State) (rD rA : Reg) (v ea : Word) :
    ∃ t, loadUpdate rD rA v ea s = .next t ∧ t.readGpr rA = ea ∧ (rD ≠ rA → t.readGpr rD = v) ∧
      LoadFrame s t (fun r => r = rD ∨ r = rA) := by
  refine ⟨_, rfl, (s.writeGpr rD v).readGpr_writeGpr_same rA ea, fun hne => ?_, ⟨fun r hr => ?_, rfl, rfl, rfl,
    ⟨rfl, rfl, rfl, rfl, rfl, rfl, rfl, rfl⟩, MemSame.of_eq rfl⟩⟩
  · exact ((s.writeGpr rD v).readGpr_writeGpr_of_ne ea hne).trans (s.readGpr_writeGpr_same rD v)
  · exact ((s.writeGpr rD v).readGpr_writeGpr_of_ne ea fun h => hr (.inr h)).trans
      (s.readGpr_writeGpr_of_ne v fun h => hr (.inl h))

/-- `lmw`'s loop writes general registers only. -/
theorem loadMultiple_frame (ea : Word) (r : Reg) (n : Nat) (s : State) :
    loadMultiple ea r n s = { s with gpr := (loadMultiple ea r n s).gpr } := by
  induction n generalizing ea r s with
  | zero => rfl
  | succ n ih =>
    unfold loadMultiple
    rw [ih]
    rfl

theorem reg_succ_toNat (r : Reg) (h : r.toNat + 1 < 32) : (r + 1#5).toNat = r.toNat + 1 := by
  rw [BitVec.toNat_add]
  exact Nat.mod_eq_of_lt h

/-- `lmw`'s loop (47_load.md R351): the registers it writes, and those it leaves. -/
theorem loadMultiple_readGpr (n : Nat) (ea : Word) (r : Reg) (s : State) (h : r.toNat + n ≤ 32) (x : Reg) :
    (loadMultiple ea r n s).readGpr x =
      if r.toNat ≤ x.toNat ∧ x.toNat < r.toNat + n then
        s.mem.readWord (ea + BitVec.ofNat 32 (4 * (x.toNat - r.toNat))) else s.readGpr x := by
  induction n generalizing ea r s with
  | zero => rw [if_neg (by omega)]; rfl
  | succ n ih =>
    unfold loadMultiple
    rcases Nat.eq_zero_or_pos n with rfl | hn
    · have hx : (r.toNat ≤ x.toNat ∧ x.toNat < r.toNat + (0 + 1)) ↔ x = r := by
        rw [← BitVec.toNat_inj]; omega
      rw [loadMultiple, State.readGpr_writeGpr]
      by_cases e : x = r
      · subst e
        rw [if_pos rfl, if_pos (hx.mpr rfl), Nat.sub_self]
        simp [State.loadWord]
      · rw [if_neg e, if_neg (fun g => e (hx.mp g))]
    · have hr : (r + 1#5).toNat = r.toNat + 1 := reg_succ_toNat r (by omega)
      rw [ih _ _ _ (by omega), hr, State.readGpr_writeGpr, State.writeGpr_mem]
      by_cases e : x = r
      · subst e
        rw [if_neg (by omega), if_pos rfl, if_pos (by omega), Nat.sub_self]
        simp [State.loadWord]
      · have hne : x.toNat ≠ r.toNat := fun g => e (BitVec.eq_of_toNat_eq g)
        rw [if_neg e]
        by_cases g : r.toNat ≤ x.toNat ∧ x.toNat < r.toNat + (n + 1)
        · rw [if_pos (by omega), if_pos g, BitVec.add_assoc, show 4#32 = BitVec.ofNat 32 4 from rfl,
            ← BitVec.ofNat_add, show 4 + 4 * (x.toNat - (r.toNat + 1)) = 4 * (x.toNat - r.toNat) by omega]
        · rw [if_neg (by omega), if_neg g]

/-- The string load's loop writes general registers only. -/
theorem loadString_frame (rA final : Reg) (n : Nat) (r : Reg) (j : Nat) (ea : Word) (s : State) :
    loadString rA final n r j ea s = { s with gpr := (loadString rA final n r j ea s).gpr } := by
  induction n generalizing r j ea s with
  | zero => rfl
  | succ n ih =>
    unfold loadString
    dsimp only
    cases stringSkips r rA final with
    | true => exact ih _ _ _ _
    | false =>
      rw [ih]
      rfl

/-- Where the string loops stand after `p` bytes from register `r`. -/
theorem string_next (r : Reg) (ea : Word) (p : Nat) :
    (if p % 4 = 3 then r + BitVec.ofNat 5 (p / 4) + 1#5 else r + BitVec.ofNat 5 (p / 4)) =
        r + BitVec.ofNat 5 ((p + 1) / 4) ∧
      (if p % 4 = 3 then 0 else p % 4 + 1) = (p + 1) % 4 ∧
      ea + BitVec.ofNat 32 p + 1#32 = ea + BitVec.ofNat 32 (p + 1) := by
  refine ⟨?_, by split <;> omega, by rw [BitVec.add_assoc, BitVec.ofNat_add]⟩
  split
  · rw [BitVec.add_assoc, show (p + 1) / 4 = p / 4 + 1 by omega, BitVec.ofNat_add]
  · rw [show (p + 1) / 4 = p / 4 by omega]

/-- Registers at different distances below 32 are different. -/
theorem reg_offset_inj (r : Reg) {i j : Nat} (hi : i < 32) (hj : j < 32) :
    r + BitVec.ofNat 5 i = r + BitVec.ofNat 5 j ↔ i = j := by
  refine ⟨fun e => ?_, fun e => e ▸ rfl⟩
  have := congrArg BitVec.toNat e
  simp only [BitVec.toNat_add, BitVec.toNat_ofNat] at this
  omega

/-- The string load's loop from byte `p` of the string, byte by byte (47_load.md R332): a skipped register keeps every
byte, a byte the loop reaches is loaded, the bytes after it in a register the loop has begun are cleared. -/
theorem loadString_byteOf (rA final r : Reg) (ea : Word) (n p : Nat) (s : State) (h : p + n ≤ 128) (q j : Nat)
    (hq : q < 32) (hj : j < 4) :
    byteOf ((loadString rA final n (r + BitVec.ofNat 5 (p / 4)) (p % 4) (ea + BitVec.ofNat 32 p) s).readGpr
        (r + BitVec.ofNat 5 q)) j =
      if stringSkips (r + BitVec.ofNat 5 q) rA final = true then byteOf (s.readGpr (r + BitVec.ofNat 5 q)) j
      else if p ≤ 4 * q + j ∧ 4 * q + j < p + n then s.mem.readByte (ea + BitVec.ofNat 32 (4 * q + j))
      else if p ≤ 4 * q ∧ 4 * q < p + n then 0#8
      else byteOf (s.readGpr (r + BitVec.ofNat 5 q)) j := by
  induction n generalizing p s with
  | zero =>
    rw [if_neg (show ¬ (p ≤ 4 * q + j ∧ 4 * q + j < p + 0) by omega),
      if_neg (show ¬ (p ≤ 4 * q ∧ 4 * q < p + 0) by omega), ite_self]
    rfl
  | succ n ih =>
    obtain ⟨e1, e2, e3⟩ := string_next r ea p
    have hp : p / 4 < 32 := by omega
    have hp4 : p % 4 < 4 := by omega
    unfold loadString
    dsimp only
    rw [e1, e2, e3, ih (p + 1) _ (by omega)]
    by_cases hs : stringSkips (r + BitVec.ofNat 5 q) rA final = true
    · rw [if_pos hs, if_pos hs]
      split
      · rfl
      · rename_i hs'
        rw [State.loadStringByte, State.readGpr_writeGpr_of_ne]
        rintro e
        exact hs' (e ▸ hs)
    · rw [if_neg hs, if_neg hs]
      by_cases hqp : q = p / 4
      · subst hqp
        rw [if_neg hs, State.loadStringByte, State.readGpr_writeGpr_same, State.writeGpr_mem,
          byteOf_setByte _ _ _ _ hj hp4]
        by_cases hjp : j = p % 4
        · rw [if_pos hjp, show 4 * (p / 4) + j = p by omega]
          split_ifs <;> first | rfl | (exfalso; omega)
        · rw [if_neg hjp]
          split_ifs <;> first | rfl | exact byteOf_zero j | (exfalso; omega)
      · have hm : ∀ b, (if stringSkips (r + BitVec.ofNat 5 (p / 4)) rA final = true then s
            else s.loadStringByte (r + BitVec.ofNat 5 (p / 4)) (p % 4) b).mem = s.mem := fun b => by split <;> rfl
        have hg : ∀ b, (if stringSkips (r + BitVec.ofNat 5 (p / 4)) rA final = true then s
            else s.loadStringByte (r + BitVec.ofNat 5 (p / 4)) (p % 4) b).readGpr (r + BitVec.ofNat 5 q) =
              s.readGpr (r + BitVec.ofNat 5 q) := fun b => by
          split
          · rfl
          · rw [State.loadStringByte, State.readGpr_writeGpr_of_ne]
            exact fun e => hqp ((reg_offset_inj r hq hp).mp e)
        rw [hm, hg]
        split_ifs <;> first | rfl | (exfalso; omega)

/-- The skip rule in terms of the register's place in the string. -/
theorem stringSkips_iff (r rA : Reg) (n k : Nat) (hk : 4 * k < n) (hn : n ≤ 128) :
    stringSkips (r + BitVec.ofNat 5 k) rA (stringFinal r n) = true ↔
      r + BitVec.ofNat 5 k = rA ∧ 4 * k + 4 < n := by
  have e : stringFinal r n = r + BitVec.ofNat 5 ((n + 3) / 4 - 1) := by
    rw [stringFinal]
    apply BitVec.eq_of_toNat_eq
    have := r.isLt
    simp only [BitVec.toNat_sub, BitVec.toNat_add, BitVec.toNat_ofNat]
    omega
  rw [stringSkips, Bool.and_eq_true, beq_iff_eq, bne_iff_ne, ne_eq, e, reg_offset_inj r (by omega) (by omega)]
  exact and_congr_right fun _ => by omega

/-! ### The wide stores, byte by byte -/

/-- A byte inside a word store (20_memory.md R63): most significant first. -/
theorem Memory.readByte_writeWord_in (m : Memory) (a v : Word) (j : Nat) (hj : j < 4)
    (hi : m.implements (a + BitVec.ofNat 32 j) = true) :
    (m.writeWord a v).readByte (a + BitVec.ofNat 32 j) = byteOf v j := by
  have ne : ∀ i, i < 4 → i ≠ j → a + BitVec.ofNat 32 j ≠ a + BitVec.ofNat 32 i := fun i hi h =>
    offset_ne a (by omega) (by omega) (Ne.symm h)
  have n1 := ne 1 (by decide)
  have n2 := ne 2 (by decide)
  have n3 := ne 3 (by decide)
  rw [Memory.readByte_writeWord]
  interval_cases j
  · rw [if_neg (fun g => n3 (by decide) g.1), if_neg (fun g => n2 (by decide) g.1),
      if_neg (fun g => n1 (by decide) g.1), if_pos ⟨by simp, hi⟩]
  · rw [if_neg (fun g => n3 (by decide) g.1), if_neg (fun g => n2 (by decide) g.1), if_pos ⟨rfl, hi⟩]
  · rw [if_neg (fun g => n3 (by decide) g.1), if_pos ⟨rfl, hi⟩]
  · rw [if_pos ⟨rfl, hi⟩]

/-- A byte inside a byte-reversed word store (20_memory.md R68): least significant first. -/
theorem Memory.readByte_writeWordRev_in (m : Memory) (a v : Word) (j : Nat) (hj : j < 4)
    (hi : m.implements (a + BitVec.ofNat 32 j) = true) :
    (m.writeWordRev a v).readByte (a + BitVec.ofNat 32 j) = byteOf v (3 - j) := by
  have ne : ∀ i, i < 4 → i ≠ j → a + BitVec.ofNat 32 j ≠ a + BitVec.ofNat 32 i := fun i hi h =>
    offset_ne a (by omega) (by omega) (Ne.symm h)
  have n1 := ne 1 (by decide)
  have n2 := ne 2 (by decide)
  have n3 := ne 3 (by decide)
  rw [Memory.readByte_writeWordRev]
  interval_cases j
  · rw [if_neg (fun g => n3 (by decide) g.1), if_neg (fun g => n2 (by decide) g.1),
      if_neg (fun g => n1 (by decide) g.1), if_pos ⟨by simp, hi⟩]
  · rw [if_neg (fun g => n3 (by decide) g.1), if_neg (fun g => n2 (by decide) g.1), if_pos ⟨rfl, hi⟩]
  · rw [if_neg (fun g => n3 (by decide) g.1), if_pos ⟨rfl, hi⟩]
  · rw [if_pos ⟨rfl, hi⟩]

/-- A byte inside a halfword store. -/
theorem Memory.readByte_writeHalf_in (m : Memory) (a v : Word) (j : Nat) (hj : j < 2)
    (hi : m.implements (a + BitVec.ofNat 32 j) = true) :
    (m.writeHalf a v).readByte (a + BitVec.ofNat 32 j) = byteOf v (2 + j) := by
  have n1 : a + BitVec.ofNat 32 0 ≠ a + BitVec.ofNat 32 1 := offset_ne a (by decide) (by decide) (by decide)
  rw [Memory.readByte_writeHalf]
  interval_cases j
  · rw [if_neg (fun g => n1 g.1), if_pos ⟨by simp, hi⟩]
  · rw [if_pos ⟨rfl, hi⟩]

/-- A byte inside a byte-reversed halfword store. -/
theorem Memory.readByte_writeHalfRev_in (m : Memory) (a v : Word) (j : Nat) (hj : j < 2)
    (hi : m.implements (a + BitVec.ofNat 32 j) = true) :
    (m.writeHalfRev a v).readByte (a + BitVec.ofNat 32 j) = byteOf v (3 - j) := by
  have n1 : a + BitVec.ofNat 32 0 ≠ a + BitVec.ofNat 32 1 := offset_ne a (by decide) (by decide) (by decide)
  rw [Memory.readByte_writeHalfRev]
  interval_cases j
  · rw [if_neg (fun g => n1 g.1), if_pos ⟨by simp, hi⟩]
  · rw [if_pos ⟨rfl, hi⟩]

theorem ne_of_not_inAccess {ea x : Word} {n : Nat} (h : ¬ InAccess ea n x) (i : Nat) (hi : i < n) :
    x ≠ ea + BitVec.ofNat 32 i := fun e => h ⟨i, hi, e⟩

/-- A byte outside a word store keeps its value. -/
theorem Memory.readByte_writeWord_out (m : Memory) (a v x : Word) (h : ¬ InAccess a 4 x) :
    (m.writeWord a v).readByte x = m.readByte x := by
  have ne := ne_of_not_inAccess h
  rw [Memory.readByte_writeWord, if_neg (fun g => ne 3 (by decide) g.1), if_neg (fun g => ne 2 (by decide) g.1),
    if_neg (fun g => ne 1 (by decide) g.1), if_neg (fun g => ne 0 (by decide) (by simpa using g.1))]

theorem Memory.readByte_writeWordRev_out (m : Memory) (a v x : Word) (h : ¬ InAccess a 4 x) :
    (m.writeWordRev a v).readByte x = m.readByte x := by
  have ne := ne_of_not_inAccess h
  rw [Memory.readByte_writeWordRev, if_neg (fun g => ne 3 (by decide) g.1), if_neg (fun g => ne 2 (by decide) g.1),
    if_neg (fun g => ne 1 (by decide) g.1), if_neg (fun g => ne 0 (by decide) (by simpa using g.1))]

theorem Memory.readByte_writeHalf_out (m : Memory) (a v x : Word) (h : ¬ InAccess a 2 x) :
    (m.writeHalf a v).readByte x = m.readByte x := by
  have ne := ne_of_not_inAccess h
  rw [Memory.readByte_writeHalf, if_neg (fun g => ne 1 (by decide) g.1),
    if_neg (fun g => ne 0 (by decide) (by simpa using g.1))]

theorem Memory.readByte_writeHalfRev_out (m : Memory) (a v x : Word) (h : ¬ InAccess a 2 x) :
    (m.writeHalfRev a v).readByte x = m.readByte x := by
  have ne := ne_of_not_inAccess h
  rw [Memory.readByte_writeHalfRev, if_neg (fun g => ne 1 (by decide) g.1),
    if_neg (fun g => ne 0 (by decide) (by simpa using g.1))]

theorem MemKept.of_byte (s : State) (ea : Word) (b : Byte) :
    MemKept s (s.setMem (s.mem.writeByte ea b)) (InAccess ea 1) :=
  .of_writeByte s ea b _ ⟨0, by decide, by simp⟩

theorem MemKept.of_half (s : State) (ea v : Word) : MemKept s (s.setMem (s.mem.writeHalf ea v)) (InAccess ea 2) :=
  ⟨by simp, by simp, fun x hx => s.mem.readByte_writeHalf_out ea v x hx⟩

theorem MemKept.of_word (s : State) (ea v : Word) : MemKept s (s.setMem (s.mem.writeWord ea v)) (InAccess ea 4) :=
  ⟨by simp, by simp, fun x hx => s.mem.readByte_writeWord_out ea v x hx⟩

theorem MemKept.of_halfRev (s : State) (ea v : Word) :
    MemKept s (s.setMem (s.mem.writeHalfRev ea v)) (InAccess ea 2) :=
  ⟨by simp, by simp, fun x hx => s.mem.readByte_writeHalfRev_out ea v x hx⟩

theorem MemKept.of_wordRev (s : State) (ea v : Word) :
    MemKept s (s.setMem (s.mem.writeWordRev ea v)) (InAccess ea 4) :=
  ⟨by simp, by simp, fun x hx => s.mem.readByte_writeWordRev_out ea v x hx⟩

/-! ### Stores -/

/-- Everything a store without update does. -/
theorem storePlain_effect (s : State) (m : Memory) (stored : Word → Prop) (h : MemKept s (s.setMem m) stored) :
    ∃ t, storePlain m s = .next t ∧ t.mem = m ∧ StoreFrame s t NoGpr stored :=
  ⟨_, rfl, rfl, ⟨fun _ _ => rfl, rfl, rfl, rfl, ⟨rfl, rfl, rfl, rfl, rfl, rfl, rfl, rfl⟩, h⟩⟩

/-- Everything a store with update does. -/
theorem storeUpdate_effect (s : State) (m : Memory) (rA : Reg) (ea : Word) (stored : Word → Prop)
    (h : MemKept s (s.setMem m) stored) :
    ∃ t, storeUpdate m rA ea s = .next t ∧ t.mem = m ∧ t.readGpr rA = ea ∧ StoreFrame s t (· = rA) stored := by
  refine ⟨_, rfl, rfl, (s.setMem m).readGpr_writeGpr_same rA ea, ⟨fun r hr => ?_, rfl, rfl, rfl,
    ⟨rfl, rfl, rfl, rfl, rfl, rfl, rfl, rfl⟩, h⟩⟩
  exact (s.setMem m).readGpr_writeGpr_of_ne ea hr

/-- `stmw`'s loop (48_store.md R375), byte by byte. -/
theorem storeMultiple_readByte (s : State) (n : Nat) (ea : Word) (r : Reg) (m : Memory) (hn : n ≤ 32) :
    (storeMultiple s ea r n m).base = m.base ∧ (storeMultiple s ea r n m).size = m.size ∧
      (∀ k j, k < n → j < 4 → m.implements (ea + BitVec.ofNat 32 (4 * k + j)) = true →
        (storeMultiple s ea r n m).readByte (ea + BitVec.ofNat 32 (4 * k + j)) =
          byteOf (s.readGpr (r + BitVec.ofNat 5 k)) j) ∧
      ∀ x, ¬ InAccess ea (4 * n) x → (storeMultiple s ea r n m).readByte x = m.readByte x := by
  induction n generalizing ea r m with
  | zero => exact ⟨rfl, rfl, fun _ _ h => absurd h (by omega), fun _ _ => rfl⟩
  | succ n ih =>
    unfold storeMultiple
    obtain ⟨hb, hs, hin, hout⟩ := ih (ea + 4#32) (r + 1#5) (m.writeWord ea (s.readGpr r)) (by omega)
    have off : ∀ i, ea + 4#32 + BitVec.ofNat 32 i = ea + BitVec.ofNat 32 (4 + i) := fun i => by
      rw [BitVec.add_assoc, BitVec.ofNat_add]
    refine ⟨by rw [hb, Memory.writeWord_base], by rw [hs, Memory.writeWord_size], fun k j hk hj hi => ?_, fun x hx => ?_⟩
    · rcases Nat.eq_zero_or_pos k with rfl | hk0
      · rw [hout]
        · simpa using m.readByte_writeWord_in ea (s.readGpr r) j hj (by simpa using hi)
        · rintro ⟨i, hi', e⟩
          rw [off] at e
          exact offset_ne ea (by omega) (by omega) (by omega) e
      · have e : 4 * k + j = 4 + (4 * (k - 1) + j) := by omega
        have h := hin (k - 1) j (by omega) hj (by rw [off, ← e, Memory.writeWord_implements]; exact hi)
        rw [off, ← e, BitVec.add_assoc, show 1#5 = BitVec.ofNat 5 1 from rfl, ← BitVec.ofNat_add,
          show 1 + (k - 1) = k by omega] at h
        exact h
    · rw [hout x, Memory.readByte_writeWord_out]
      · exact fun ⟨i, hi, e⟩ => hx ⟨i, by omega, e⟩
      · rintro ⟨i, hi, e⟩
        exact hx ⟨4 + i, by omega, by rw [e, off]⟩

/-- The string store's loop from byte `p` of the string (47_load.md R332): each byte that is not skipped is stored
where implemented, and no other byte of memory changes. -/
theorem storeString_readByte (s : State) (rA final r : Reg) (ea : Word) (n p : Nat) (m : Memory) (h : p + n ≤ 128) :
    (storeString s rA final n (r + BitVec.ofNat 5 (p / 4)) (p % 4) (ea + BitVec.ofNat 32 p) m).base = m.base ∧
      (storeString s rA final n (r + BitVec.ofNat 5 (p / 4)) (p % 4) (ea + BitVec.ofNat 32 p) m).size = m.size ∧
      (∀ i, p ≤ i → i < p + n → stringSkips (r + BitVec.ofNat 5 (i / 4)) rA final = false →
        m.implements (ea + BitVec.ofNat 32 i) = true →
        (storeString s rA final n (r + BitVec.ofNat 5 (p / 4)) (p % 4) (ea + BitVec.ofNat 32 p) m).readByte
          (ea + BitVec.ofNat 32 i) = byteOf (s.readGpr (r + BitVec.ofNat 5 (i / 4))) (i % 4)) ∧
      ∀ x, (¬ ∃ i, p ≤ i ∧ i < p + n ∧ stringSkips (r + BitVec.ofNat 5 (i / 4)) rA final = false ∧
          x = ea + BitVec.ofNat 32 i) →
        (storeString s rA final n (r + BitVec.ofNat 5 (p / 4)) (p % 4) (ea + BitVec.ofNat 32 p) m).readByte x =
          m.readByte x := by
  induction n generalizing p m with
  | zero => exact ⟨rfl, rfl, fun i _ _ => absurd (by assumption : i < p + 0) (by omega), fun _ _ => rfl⟩
  | succ n ih =>
    obtain ⟨e1, e2, e3⟩ := string_next r ea p
    unfold storeString
    dsimp only
    rw [e1, e2, e3]
    by_cases hs : stringSkips (r + BitVec.ofNat 5 (p / 4)) rA final = true
    · rw [if_pos hs]
      obtain ⟨hb, hz, hin, hout⟩ := ih (p + 1) m (by omega)
      refine ⟨hb, hz, fun i h1 h2 h3 h4 => hin i ?_ (by omega) h3 h4, fun x hx => hout x ?_⟩
      · rcases Nat.eq_or_lt_of_le h1 with rfl | h1
        · rw [hs] at h3; exact absurd h3 (by decide)
        · exact h1
      · rintro ⟨i, h1, h2, h3⟩
        exact hx ⟨i, by omega, by omega, h3⟩
    · rw [if_neg hs]
      obtain ⟨hb, hz, hin, hout⟩ := ih (p + 1)
        (m.writeByte (ea + BitVec.ofNat 32 p) (byteOf (s.readGpr (r + BitVec.ofNat 5 (p / 4))) (p % 4))) (by omega)
      refine ⟨by rw [hb, Memory.writeByte_base], by rw [hz, Memory.writeByte_size], fun i h1 h2 h3 h4 => ?_,
        fun x hx => ?_⟩
      · rcases Nat.eq_or_lt_of_le h1 with rfl | h1
        · rw [hout, Memory.readByte_writeByte, if_pos ⟨rfl, h4⟩]
          rintro ⟨i, g1, g2, _, e⟩
          exact offset_ne ea (by omega) (by omega) (by omega) e
        · exact hin i h1 (by omega) h3 (by rw [Memory.writeByte_implements]; exact h4)
      · rw [hout x, Memory.readByte_writeByte_of_ne]
        · rintro e
          exact hx ⟨p, by omega, by omega, by simpa using hs, e⟩
        · rintro ⟨i, h1, h2, h3⟩
          exact hx ⟨i, by omega, by omega, h3⟩

end Sys2Proof.Machine
end

