-- ==== Sys2Proof/Laws/Shape.lean ====
section
/-! SUPPORT. What one instruction can do to the machine, said once for all 177: the six shapes of a next state, from
which whole-machine invariants follow by six cases. -/

namespace Sys2Proof.Machine

/-- What every instruction that is no branch, no store and no `mtspr` keeps: `pc` advances, no special-purpose
register, no byte of memory, no unnamed XER bit and no part of the latch changes. -/
structure Computes (s t : State) : Prop where
  pc : t.pc = s.pc + 4#32
  lr : t.lr = s.lr
  ctr : t.ctr = s.ctr
  usprg0 : t.usprg0 = s.usprg0
  sprg4 : t.sprg4 = s.sprg4
  sprg5 : t.sprg5 = s.sprg5
  sprg6 : t.sprg6 = s.sprg6
  sprg7 : t.sprg7 = s.sprg7
  fatal : t.fatal = s.fatal
  mem : t.mem = s.mem
  xer : ∀ k, k < 29 → t.xer.getLsbD k = s.xer.getLsbD k

/-- An answer that is the next state of a computing instruction, with SO kept or set. -/
def ComputesNext (s : State) (r : Result) : Prop := ∃ t, r = .next t ∧ Computes s t ∧ (s.so = true → t.so = true)

/-- The end of a computing instruction: a state that differs from the one before it in general registers, CR, XER
and the draw counter only. -/
theorem ComputesNext.of_complete {s0 s : State} {so ov ca : Bool}
    (he : s = { s0 with gpr := s.gpr, cr := s.cr, xer := s.xer, draws := s.draws }) (hx : XerBecomes s0 s so ov ca)
    (hso : s0.so = true → so = true) : ComputesNext s0 s.complete := by
  refine ⟨_, rfl, ⟨?_, ?_, ?_, ?_, ?_, ?_, ?_, ?_, ?_, ?_, hx.2.2.2⟩, fun h => hx.1.trans (hso h)⟩
  all_goals rw [he]; rfl

/-- The same when XER is not written. -/
theorem ComputesNext.of_same {s0 s : State}
    (he : s = { s0 with gpr := s.gpr, cr := s.cr, xer := s0.xer, draws := s.draws }) : ComputesNext s0 s.complete := by
  refine .of_complete (so := s0.so) (ov := s0.ov) (ca := s0.ca) (by rw [he]) ?_ id
  have : s.xer = s0.xer := by rw [he]
  exact ⟨by rw [this]; rfl, by rw [this]; rfl, by rw [this]; rfl, fun _ _ => by rw [this]⟩

/-- The add and subtract pattern (42_add_sub.md R170). -/
theorem ComputesNext.addThree (f : SumForm) (dest : Reg) (s1 s2 s3 : Word) (s : State) :
    ComputesNext s (addThree f dest s1 s2 s3 s) := by
  obtain ⟨carrying, oe, rc⟩ := f
  cases carrying <;> cases oe
  · cases rc <;> exact .of_same rfl
  · cases rc <;> exact .of_complete rfl (XerBecomes.recordOverflow s _) (fun h => by rw [h]; rfl)
  · cases rc <;> exact .of_complete rfl (XerBecomes.setCa s _) id
  · cases rc <;> exact .of_complete rfl (XerBecomes.setCa_recordOverflow s _ _) (fun h => by rw [h]; rfl)

/-- The end of a multiply or divide. -/
theorem ComputesNext.finishArith (rc : Bool) (dest : Reg) (v : Word) (s : State) :
    ComputesNext s (s.finishArith rc dest v) := by
  cases rc <;> exact .of_same rfl

/-- The end of a logical, rotate or shift instruction. -/
theorem ComputesNext.finishLogical (rc : Bool) (dest : Reg) (v : Word) (s : State) :
    ComputesNext s (s.finishLogical rc dest v) := by
  cases rc <;> exact .of_same rfl

/-- `mullw` in its four forms. -/
theorem ComputesNext.mulLow (oe rc : Bool) (rD rA rB : Reg) (s : State) :
    ComputesNext s (mulLow oe rc rD rA rB s) := by
  cases oe
  · cases rc <;> exact .of_same rfl
  · cases rc <;> exact .of_complete rfl (XerBecomes.recordOverflow s _) (fun h => by rw [h]; rfl)

/-- `divw` in its four forms, undefined divisions included. -/
theorem ComputesNext.divideSigned (form : Config.DivideForm) (oe rc : Bool) (rD rA rB : Reg) (s : State) :
    ComputesNext s (divideSigned form oe rc rD rA rB s) := by
  unfold Machine.divideSigned; dsimp only
  generalize divSignedUndefined (s.readGpr rA) (s.readGpr rB) = u
  cases oe
  · cases rc <;> cases u <;> exact .of_same rfl
  · cases rc <;> cases u <;> exact .of_complete rfl (XerBecomes.recordOverflow s _) (fun h => by rw [h]; rfl)

/-- `divwu` in its four forms, undefined divisions included. -/
theorem ComputesNext.divideUnsigned (form : Config.DivideForm) (oe rc : Bool) (rD rA rB : Reg) (s : State) :
    ComputesNext s (divideUnsigned form oe rc rD rA rB s) := by
  unfold Machine.divideUnsigned; dsimp only
  generalize (s.readGpr rB == 0#32) = u
  cases oe
  · cases rc <;> cases u <;> exact .of_same rfl
  · cases rc <;> cases u <;> exact .of_complete rfl (XerBecomes.recordOverflow s _) (fun h => by rw [h]; rfl)

/-- `sraw` and `srawi`. -/
theorem ComputesNext.shiftAlgebraic (rc : Bool) (rA rS : Reg) (n : BitVec 6) (s : State) :
    ComputesNext s (shiftAlgebraic rc rA rS n s) := by
  cases rc <;> exact .of_complete rfl (XerBecomes.setCa s _) id

/-- `lmw`. -/
theorem ComputesNext.loadMultiple (ea : Word) (r : Reg) (n : Nat) (s : State) :
    ComputesNext s (loadMultiple ea r n s).complete := by
  rw [loadMultiple_frame]; exact .of_same rfl

/-- `lswi` and `lswx`. -/
theorem ComputesNext.stringLoad (rD rA : Reg) (ea : Word) (n : Nat) (s : State) :
    ComputesNext s (stringLoad rD rA ea n s) := by
  rw [Machine.stringLoad, loadString_frame]; exact .of_same rfl

/-! ### Alignment of branch targets -/

theorem aligned_add {p d : Word} (hp : p.toNat % 4 = 0) (hd : d.toNat % 4 = 0) : (p + d).toNat % 4 = 0 := by
  rw [BitVec.toNat_add]
  omega

theorem alignTarget_aligned (v : Word) : (alignTarget v).toNat % 4 = 0 := by
  rw [alignTarget_eq, BitVec.toNat_mul, BitVec.toNat_udiv]
  have := v.isLt
  change 4 * (v.toNat / 4) % 4294967296 % 4 = 0
  omega

theorem dispLI_aligned (li : BitVec 24) : (dispLI li).toNat % 4 = 0 := by
  rw [dispLI_eq, BitVec.toNat_ofInt]
  omega

theorem dispBD_aligned (bd : BitVec 14) : (dispBD bd).toNat % 4 = 0 := by
  rw [dispBD_eq, BitVec.toNat_ofInt]
  omega

/-! ### Memory operations keep the canonical form and the implemented range -/

/-- A memory after an operation: canonical if it was, over the same implemented range. -/
structure Memory.Kept (m m' : Memory) : Prop where
  wf : m.wf = true → m'.wf = true
  base : m'.base = m.base
  size : m'.size = m.size

theorem Memory.Kept.trans {m m' m'' : Memory} (h : m.Kept m') (h' : m'.Kept m'') : m.Kept m'' :=
  ⟨fun w => h'.wf (h.wf w), h'.base.trans h.base, h'.size.trans h.size⟩

theorem Memory.Kept.writeByte (m : Memory) (a : Word) (b : Byte) : m.Kept (m.writeByte a b) :=
  ⟨m.writeByte_wf a b, by simp, by simp⟩

theorem Memory.Kept.writeHalf (m : Memory) (a v : Word) : m.Kept (m.writeHalf a v) :=
  ⟨m.writeHalf_wf a v, by simp, by simp⟩

theorem Memory.Kept.writeWord (m : Memory) (a v : Word) : m.Kept (m.writeWord a v) :=
  ⟨m.writeWord_wf a v, by simp, by simp⟩

theorem Memory.Kept.writeHalfRev (m : Memory) (a v : Word) : m.Kept (m.writeHalfRev a v) :=
  ⟨m.writeHalfRev_wf a v, by simp, by simp⟩

theorem Memory.Kept.writeWordRev (m : Memory) (a v : Word) : m.Kept (m.writeWordRev a v) :=
  ⟨m.writeWordRev_wf a v, by simp, by simp⟩

theorem Memory.Kept.storeMultiple (s : State) (n : Nat) (ea : Word) (r : Reg) (m : Memory) :
    m.Kept (storeMultiple s ea r n m) := by
  induction n generalizing ea r m with
  | zero => exact ⟨id, rfl, rfl⟩
  | succ n ih => exact (Memory.Kept.writeWord m _ _).trans (ih _ _ _)

theorem Memory.Kept.storeString (s : State) (rA final : Reg) (n : Nat) (r : Reg) (j : Nat) (ea : Word) (m : Memory) :
    m.Kept (storeString s rA final n r j ea m) := by
  induction n generalizing r j ea m with
  | zero => exact ⟨id, rfl, rfl⟩
  | succ n ih =>
    refine Memory.Kept.trans ?_ (ih _ _ _ _)
    split
    · exact ⟨id, rfl, rfl⟩
    · exact Memory.Kept.writeByte m _ _

/-! ### Stores and branches -/

/-- What every store keeps: `pc` advances, memory is kept as `Memory.Kept` says, and no special-purpose register, no
XER bit and no part of the latch changes. -/
structure Stores (s t : State) : Prop where
  pc : t.pc = s.pc + 4#32
  lr : t.lr = s.lr
  ctr : t.ctr = s.ctr
  usprg0 : t.usprg0 = s.usprg0
  sprg4 : t.sprg4 = s.sprg4
  sprg5 : t.sprg5 = s.sprg5
  sprg6 : t.sprg6 = s.sprg6
  sprg7 : t.sprg7 = s.sprg7
  fatal : t.fatal = s.fatal
  mem : s.mem.Kept t.mem
  xer : t.xer = s.xer

theorem Stores.of_storePlain {m : Memory} {s : State} (h : s.mem.Kept m) :
    ∃ t, storePlain m s = .next t ∧ Stores s t :=
  ⟨_, rfl, rfl, rfl, rfl, rfl, rfl, rfl, rfl, rfl, rfl, h, rfl⟩

theorem Stores.of_storeUpdate {m : Memory} {rA : Reg} {ea : Word} {s : State} (h : s.mem.Kept m) :
    ∃ t, storeUpdate m rA ea s = .next t ∧ Stores s t :=
  ⟨_, rfl, rfl, rfl, rfl, rfl, rfl, rfl, rfl, rfl, rfl, h, rfl⟩

/-- The branches with the link bit (41_branch.md R152). -/
def Links (i : Instr) : Prop :=
  (∃ li, i = .bl li ∨ i = .bla li) ∨ (∃ bo bi bd, i = .bcl bo bi bd ∨ i = .bcla bo bi bd) ∨
    ∃ bo bi, i = .bclrl bo bi ∨ i = .bcctrl bo bi

/-- The conditional branches that decrement CTR (40_helpers.md R138). -/
def Decrements (i : Instr) : Prop :=
  ∃ bo bi, bo.getLsbD 2 = false ∧
    ((∃ bd, i = .bc bo bi bd ∨ i = .bca bo bi bd ∨ i = .bcl bo bi bd ∨ i = .bcla bo bi bd) ∨
      i = .bclr bo bi ∨ i = .bclrl bo bi ∨ i = .bcctr bo bi ∨ i = .bcctrl bo bi)

/-- What a branch does: only `pc`, LR and CTR change; `pc` stays aligned; LR changes only with the link bit, CTR only
with a decrement. -/
structure Branches (i : Instr) (s t : State) : Prop where
  rest : t = { s with pc := t.pc, lr := t.lr, ctr := t.ctr }
  aligned : s.pc.toNat % 4 = 0 → t.pc.toNat % 4 = 0
  lr : t.lr ≠ s.lr → Links i
  ctr : t.ctr ≠ s.ctr → Decrements i

theorem branchCtr_ne {c : Word} {bo : BitVec 5} (h : branchCtr c bo ≠ c) : bo.getLsbD 2 = false := by
  rw [branchCtr_eq] at h
  cases hb : bo.getLsbD 2
  · rfl
  · simp [hb] at h

theorem ite_aligned {c : Prop} [Decidable c] {p q : Word} (hp : p.toNat % 4 = 0) (hq : q.toNat % 4 = 0) :
    (if c then p else q).toNat % 4 = 0 := by
  split
  · exact hp
  · exact hq

/-! ### Every instruction -/

/-- The six ways an instruction can end. -/
inductive Shape (i : Instr) (s t : State) : Prop
  | computes : Computes s t → (s.so = true → t.so = true) → Shape i s t
  | mcrxr (crfD : CrField) : i = .mcrxr crfD → Computes s t → Shape i s t
  | branches : Branches i s t → Shape i s t
  | stores : isStore i = true → Stores s t → Shape i s t
  | writesSpr (n : Nat) (r : Reg) (x : Spr) : i = .mtspr n r → sprOf n = some x →
      t = (s.writeSpr x (s.readGpr r)).setPc (s.pc + 4#32) → Shape i s t
  | stops (n : Nat) (r : Reg) : sprOf n = none → (i = .mtspr n r ∨ i = .mfspr r n) → t = s.fatalStop .spr →
      Shape i s t

/-- `exec` answers a next state of one of the six shapes. -/
def HasShape (i : Instr) (s : State) : Prop := ∃ t, exec i s = .next t ∧ Shape i s t

theorem ComputesNext.shape {i : Instr} {s : State} (h : ComputesNext s (exec i s)) : HasShape i s := by
  obtain ⟨t, h1, h2, h3⟩ := h
  exact ⟨t, h1, .computes h2 h3⟩

theorem HasShape.of_plain {i : Instr} {s : State} {m : Memory} (h : exec i s = storePlain m s)
    (hi : isStore i = true) (hm : s.mem.Kept m) : HasShape i s := by
  obtain ⟨t, h1, h2⟩ := Stores.of_storePlain hm
  exact ⟨t, h.trans h1, .stores hi h2⟩

theorem HasShape.of_update {i : Instr} {s : State} {m : Memory} {rA : Reg} {ea : Word}
    (h : exec i s = storeUpdate m rA ea s) (hi : isStore i = true) (hm : s.mem.Kept m) : HasShape i s := by
  obtain ⟨t, h1, h2⟩ := Stores.of_storeUpdate hm
  exact ⟨t, h.trans h1, .stores hi h2⟩

theorem exec_shape_b (li : BitVec 24) (s : State) : HasShape (.b li) s :=
  ⟨_, rfl, .branches ⟨rfl, fun h => aligned_add h (dispLI_aligned li),
    fun h => absurd rfl h, fun h => absurd rfl h⟩⟩

theorem exec_shape_ba (li : BitVec 24) (s : State) : HasShape (.ba li) s :=
  ⟨_, rfl, .branches ⟨rfl, fun _ => dispLI_aligned li,
    fun h => absurd rfl h, fun h => absurd rfl h⟩⟩

theorem exec_shape_bl (li : BitVec 24) (s : State) : HasShape (.bl li) s :=
  ⟨_, rfl, .branches ⟨rfl, fun h => aligned_add h (dispLI_aligned li),
    fun _ => .inl ⟨li, .inl rfl⟩, fun h => absurd rfl h⟩⟩

theorem exec_shape_bla (li : BitVec 24) (s : State) : HasShape (.bla li) s :=
  ⟨_, rfl, .branches ⟨rfl, fun _ => dispLI_aligned li,
    fun _ => .inl ⟨li, .inr rfl⟩, fun h => absurd rfl h⟩⟩

theorem exec_shape_bc (bo : BitVec 5) (bi : CrBit) (bd : BitVec 14) (s : State) : HasShape (.bc bo bi bd) s :=
  ⟨_, rfl, .branches ⟨rfl, fun h => ite_aligned (aligned_add h (dispBD_aligned bd)) (aligned_add h (by decide)),
    fun h => absurd rfl h, fun h => ⟨bo, bi, branchCtr_ne h, .inl ⟨bd, .inl rfl⟩⟩⟩⟩

theorem exec_shape_bca (bo : BitVec 5) (bi : CrBit) (bd : BitVec 14) (s : State) : HasShape (.bca bo bi bd) s :=
  ⟨_, rfl, .branches ⟨rfl, fun h => ite_aligned (dispBD_aligned bd) (aligned_add h (by decide)),
    fun h => absurd rfl h, fun h => ⟨bo, bi, branchCtr_ne h, .inl ⟨bd, .inr (.inl rfl)⟩⟩⟩⟩

theorem exec_shape_bcl (bo : BitVec 5) (bi : CrBit) (bd : BitVec 14) (s : State) : HasShape (.bcl bo bi bd) s :=
  ⟨_, rfl, .branches ⟨rfl, fun h => ite_aligned (aligned_add h (dispBD_aligned bd)) (aligned_add h (by decide)),
    fun _ => .inr (.inl ⟨bo, bi, bd, .inl rfl⟩), fun h => ⟨bo, bi, branchCtr_ne h, .inl ⟨bd, .inr (.inr (.inl rfl))⟩⟩⟩⟩

theorem exec_shape_bcla (bo : BitVec 5) (bi : CrBit) (bd : BitVec 14) (s : State) : HasShape (.bcla bo bi bd) s :=
  ⟨_, rfl, .branches ⟨rfl, fun h => ite_aligned (dispBD_aligned bd) (aligned_add h (by decide)),
    fun _ => .inr (.inl ⟨bo, bi, bd, .inr rfl⟩), fun h => ⟨bo, bi, branchCtr_ne h, .inl ⟨bd, .inr (.inr (.inr rfl))⟩⟩⟩⟩

theorem exec_shape_bclr (bo : BitVec 5) (bi : CrBit) (s : State) : HasShape (.bclr bo bi) s :=
  ⟨_, rfl, .branches ⟨rfl, fun h => ite_aligned (alignTarget_aligned _) (aligned_add h (by decide)),
    fun h => absurd rfl h, fun h => ⟨bo, bi, branchCtr_ne h, .inr (.inl rfl)⟩⟩⟩

theorem exec_shape_bclrl (bo : BitVec 5) (bi : CrBit) (s : State) : HasShape (.bclrl bo bi) s :=
  ⟨_, rfl, .branches ⟨rfl, fun h => ite_aligned (alignTarget_aligned _) (aligned_add h (by decide)),
    fun _ => .inr (.inr ⟨bo, bi, .inl rfl⟩), fun h => ⟨bo, bi, branchCtr_ne h, .inr (.inr (.inl rfl))⟩⟩⟩

theorem exec_shape_bcctr (bo : BitVec 5) (bi : CrBit) (s : State) : HasShape (.bcctr bo bi) s :=
  ⟨_, rfl, .branches ⟨rfl, fun h => ite_aligned (alignTarget_aligned _) (aligned_add h (by decide)),
    fun h => absurd rfl h, fun h => ⟨bo, bi, branchCtr_ne h, .inr (.inr (.inr (.inl rfl)))⟩⟩⟩

theorem exec_shape_bcctrl (bo : BitVec 5) (bi : CrBit) (s : State) : HasShape (.bcctrl bo bi) s :=
  ⟨_, rfl, .branches ⟨rfl, fun h => ite_aligned (alignTarget_aligned _) (aligned_add h (by decide)),
    fun _ => .inr (.inr ⟨bo, bi, .inr rfl⟩), fun h => ⟨bo, bi, branchCtr_ne h, .inr (.inr (.inr (.inr rfl)))⟩⟩⟩

theorem exec_shape_add (rD rA rB : Reg) (s : State) : HasShape (.add rD rA rB) s :=
  (show ComputesNext s _ from .addThree _ _ _ _ _ _).shape

theorem exec_shape_addRc (rD rA rB : Reg) (s : State) : HasShape (.addRc rD rA rB) s :=
  (show ComputesNext s _ from .addThree _ _ _ _ _ _).shape

theorem exec_shape_addo (rD rA rB : Reg) (s : State) : HasShape (.addo rD rA rB) s :=
  (show ComputesNext s _ from .addThree _ _ _ _ _ _).shape

theorem exec_shape_addoRc (rD rA rB : Reg) (s : State) : HasShape (.addoRc rD rA rB) s :=
  (show ComputesNext s _ from .addThree _ _ _ _ _ _).shape

theorem exec_shape_addc (rD rA rB : Reg) (s : State) : HasShape (.addc rD rA rB) s :=
  (show ComputesNext s _ from .addThree _ _ _ _ _ _).shape

theorem exec_shape_addcRc (rD rA rB : Reg) (s : State) : HasShape (.addcRc rD rA rB) s :=
  (show ComputesNext s _ from .addThree _ _ _ _ _ _).shape

theorem exec_shape_addco (rD rA rB : Reg) (s : State) : HasShape (.addco rD rA rB) s :=
  (show ComputesNext s _ from .addThree _ _ _ _ _ _).shape

theorem exec_shape_addcoRc (rD rA rB : Reg) (s : State) : HasShape (.addcoRc rD rA rB) s :=
  (show ComputesNext s _ from .addThree _ _ _ _ _ _).shape

theorem exec_shape_adde (rD rA rB : Reg) (s : State) : HasShape (.adde rD rA rB) s :=
  (show ComputesNext s _ from .addThree _ _ _ _ _ _).shape

theorem exec_shape_addeRc (rD rA rB : Reg) (s : State) : HasShape (.addeRc rD rA rB) s :=
  (show ComputesNext s _ from .addThree _ _ _ _ _ _).shape

theorem exec_shape_addeo (rD rA rB : Reg) (s : State) : HasShape (.addeo rD rA rB) s :=
  (show ComputesNext s _ from .addThree _ _ _ _ _ _).shape

theorem exec_shape_addeoRc (rD rA rB : Reg) (s : State) : HasShape (.addeoRc rD rA rB) s :=
  (show ComputesNext s _ from .addThree _ _ _ _ _ _).shape

theorem exec_shape_addme (rD rA : Reg) (s : State) : HasShape (.addme rD rA) s :=
  (show ComputesNext s _ from .addThree _ _ _ _ _ _).shape

theorem exec_shape_addmeRc (rD rA : Reg) (s : State) : HasShape (.addmeRc rD rA) s :=
  (show ComputesNext s _ from .addThree _ _ _ _ _ _).shape

theorem exec_shape_addmeo (rD rA : Reg) (s : State) : HasShape (.addmeo rD rA) s :=
  (show ComputesNext s _ from .addThree _ _ _ _ _ _).shape

theorem exec_shape_addmeoRc (rD rA : Reg) (s : State) : HasShape (.addmeoRc rD rA) s :=
  (show ComputesNext s _ from .addThree _ _ _ _ _ _).shape

theorem exec_shape_addze (rD rA : Reg) (s : State) : HasShape (.addze rD rA) s :=
  (show ComputesNext s _ from .addThree _ _ _ _ _ _).shape

theorem exec_shape_addzeRc (rD rA : Reg) (s : State) : HasShape (.addzeRc rD rA) s :=
  (show ComputesNext s _ from .addThree _ _ _ _ _ _).shape

theorem exec_shape_addzeo (rD rA : Reg) (s : State) : HasShape (.addzeo rD rA) s :=
  (show ComputesNext s _ from .addThree _ _ _ _ _ _).shape

theorem exec_shape_addzeoRc (rD rA : Reg) (s : State) : HasShape (.addzeoRc rD rA) s :=
  (show ComputesNext s _ from .addThree _ _ _ _ _ _).shape

theorem exec_shape_subf (rD rA rB : Reg) (s : State) : HasShape (.subf rD rA rB) s :=
  (show ComputesNext s _ from .addThree _ _ _ _ _ _).shape

theorem exec_shape_subfRc (rD rA rB : Reg) (s : State) : HasShape (.subfRc rD rA rB) s :=
  (show ComputesNext s _ from .addThree _ _ _ _ _ _).shape

theorem exec_shape_subfo (rD rA rB : Reg) (s : State) : HasShape (.subfo rD rA rB) s :=
  (show ComputesNext s _ from .addThree _ _ _ _ _ _).shape

theorem exec_shape_subfoRc (rD rA rB : Reg) (s : State) : HasShape (.subfoRc rD rA rB) s :=
  (show ComputesNext s _ from .addThree _ _ _ _ _ _).shape

theorem exec_shape_subfc (rD rA rB : Reg) (s : State) : HasShape (.subfc rD rA rB) s :=
  (show ComputesNext s _ from .addThree _ _ _ _ _ _).shape

theorem exec_shape_subfcRc (rD rA rB : Reg) (s : State) : HasShape (.subfcRc rD rA rB) s :=
  (show ComputesNext s _ from .addThree _ _ _ _ _ _).shape

theorem exec_shape_subfco (rD rA rB : Reg) (s : State) : HasShape (.subfco rD rA rB) s :=
  (show ComputesNext s _ from .addThree _ _ _ _ _ _).shape

theorem exec_shape_subfcoRc (rD rA rB : Reg) (s : State) : HasShape (.subfcoRc rD rA rB) s :=
  (show ComputesNext s _ from .addThree _ _ _ _ _ _).shape

theorem exec_shape_subfe (rD rA rB : Reg) (s : State) : HasShape (.subfe rD rA rB) s :=
  (show ComputesNext s _ from .addThree _ _ _ _ _ _).shape

theorem exec_shape_subfeRc (rD rA rB : Reg) (s : State) : HasShape (.subfeRc rD rA rB) s :=
  (show ComputesNext s _ from .addThree _ _ _ _ _ _).shape

theorem exec_shape_subfeo (rD rA rB : Reg) (s : State) : HasShape (.subfeo rD rA rB) s :=
  (show ComputesNext s _ from .addThree _ _ _ _ _ _).shape

theorem exec_shape_subfeoRc (rD rA rB : Reg) (s : State) : HasShape (.subfeoRc rD rA rB) s :=
  (show ComputesNext s _ from .addThree _ _ _ _ _ _).shape

theorem exec_shape_subfme (rD rA : Reg) (s : State) : HasShape (.subfme rD rA) s :=
  (show ComputesNext s _ from .addThree _ _ _ _ _ _).shape

theorem exec_shape_subfmeRc (rD rA : Reg) (s : State) : HasShape (.subfmeRc rD rA) s :=
  (show ComputesNext s _ from .addThree _ _ _ _ _ _).shape

theorem exec_shape_subfmeo (rD rA : Reg) (s : State) : HasShape (.subfmeo rD rA) s :=
  (show ComputesNext s _ from .addThree _ _ _ _ _ _).shape

theorem exec_shape_subfmeoRc (rD rA : Reg) (s : State) : HasShape (.subfmeoRc rD rA) s :=
  (show ComputesNext s _ from .addThree _ _ _ _ _ _).shape

theorem exec_shape_subfze (rD rA : Reg) (s : State) : HasShape (.subfze rD rA) s :=
  (show ComputesNext s _ from .addThree _ _ _ _ _ _).shape

theorem exec_shape_subfzeRc (rD rA : Reg) (s : State) : HasShape (.subfzeRc rD rA) s :=
  (show ComputesNext s _ from .addThree _ _ _ _ _ _).shape

theorem exec_shape_subfzeo (rD rA : Reg) (s : State) : HasShape (.subfzeo rD rA) s :=
  (show ComputesNext s _ from .addThree _ _ _ _ _ _).shape

theorem exec_shape_subfzeoRc (rD rA : Reg) (s : State) : HasShape (.subfzeoRc rD rA) s :=
  (show ComputesNext s _ from .addThree _ _ _ _ _ _).shape

theorem exec_shape_neg (rD rA : Reg) (s : State) : HasShape (.neg rD rA) s :=
  (show ComputesNext s _ from .addThree _ _ _ _ _ _).shape

theorem exec_shape_negRc (rD rA : Reg) (s : State) : HasShape (.negRc rD rA) s :=
  (show ComputesNext s _ from .addThree _ _ _ _ _ _).shape

theorem exec_shape_nego (rD rA : Reg) (s : State) : HasShape (.nego rD rA) s :=
  (show ComputesNext s _ from .addThree _ _ _ _ _ _).shape

theorem exec_shape_negoRc (rD rA : Reg) (s : State) : HasShape (.negoRc rD rA) s :=
  (show ComputesNext s _ from .addThree _ _ _ _ _ _).shape

theorem exec_shape_addi (rD rA : Reg) (simm : BitVec 16) (s : State) : HasShape (.addi rD rA simm) s :=
  (show ComputesNext s _ from .addThree _ _ _ _ _ _).shape

theorem exec_shape_addis (rD rA : Reg) (simm : BitVec 16) (s : State) : HasShape (.addis rD rA simm) s :=
  (show ComputesNext s _ from .addThree _ _ _ _ _ _).shape

theorem exec_shape_addic (rD rA : Reg) (simm : BitVec 16) (s : State) : HasShape (.addic rD rA simm) s :=
  (show ComputesNext s _ from .addThree _ _ _ _ _ _).shape

theorem exec_shape_addicRc (rD rA : Reg) (simm : BitVec 16) (s : State) : HasShape (.addicRc rD rA simm) s :=
  (show ComputesNext s _ from .addThree _ _ _ _ _ _).shape

theorem exec_shape_subfic (rD rA : Reg) (simm : BitVec 16) (s : State) : HasShape (.subfic rD rA simm) s :=
  (show ComputesNext s _ from .addThree _ _ _ _ _ _).shape

theorem exec_shape_mullw (rD rA rB : Reg) (s : State) : HasShape (.mullw rD rA rB) s :=
  (show ComputesNext s _ from .mulLow _ _ _ _ _ _).shape

theorem exec_shape_mullwRc (rD rA rB : Reg) (s : State) : HasShape (.mullwRc rD rA rB) s :=
  (show ComputesNext s _ from .mulLow _ _ _ _ _ _).shape

theorem exec_shape_mullwo (rD rA rB : Reg) (s : State) : HasShape (.mullwo rD rA rB) s :=
  (show ComputesNext s _ from .mulLow _ _ _ _ _ _).shape

theorem exec_shape_mullwoRc (rD rA rB : Reg) (s : State) : HasShape (.mullwoRc rD rA rB) s :=
  (show ComputesNext s _ from .mulLow _ _ _ _ _ _).shape

theorem exec_shape_mulhw (rD rA rB : Reg) (s : State) : HasShape (.mulhw rD rA rB) s :=
  (show ComputesNext s _ from .finishArith _ _ _ _).shape

theorem exec_shape_mulhwRc (rD rA rB : Reg) (s : State) : HasShape (.mulhwRc rD rA rB) s :=
  (show ComputesNext s _ from .finishArith _ _ _ _).shape

theorem exec_shape_mulhwu (rD rA rB : Reg) (s : State) : HasShape (.mulhwu rD rA rB) s :=
  (show ComputesNext s _ from .finishArith _ _ _ _).shape

theorem exec_shape_mulhwuRc (rD rA rB : Reg) (s : State) : HasShape (.mulhwuRc rD rA rB) s :=
  (show ComputesNext s _ from .finishArith _ _ _ _).shape

theorem exec_shape_mulli (rD rA : Reg) (simm : BitVec 16) (s : State) : HasShape (.mulli rD rA simm) s :=
  (show ComputesNext s _ from .finishArith _ _ _ _).shape

theorem exec_shape_divw (rD rA rB : Reg) (s : State) : HasShape (.divw rD rA rB) s :=
  (show ComputesNext s _ from .divideSigned _ _ _ _ _ _ _).shape

theorem exec_shape_divwRc (rD rA rB : Reg) (s : State) : HasShape (.divwRc rD rA rB) s :=
  (show ComputesNext s _ from .divideSigned _ _ _ _ _ _ _).shape

theorem exec_shape_divwo (rD rA rB : Reg) (s : State) : HasShape (.divwo rD rA rB) s :=
  (show ComputesNext s _ from .divideSigned _ _ _ _ _ _ _).shape

theorem exec_shape_divwoRc (rD rA rB : Reg) (s : State) : HasShape (.divwoRc rD rA rB) s :=
  (show ComputesNext s _ from .divideSigned _ _ _ _ _ _ _).shape

theorem exec_shape_divwu (rD rA rB : Reg) (s : State) : HasShape (.divwu rD rA rB) s :=
  (show ComputesNext s _ from .divideUnsigned _ _ _ _ _ _ _).shape

theorem exec_shape_divwuRc (rD rA rB : Reg) (s : State) : HasShape (.divwuRc rD rA rB) s :=
  (show ComputesNext s _ from .divideUnsigned _ _ _ _ _ _ _).shape

theorem exec_shape_divwuo (rD rA rB : Reg) (s : State) : HasShape (.divwuo rD rA rB) s :=
  (show ComputesNext s _ from .divideUnsigned _ _ _ _ _ _ _).shape

theorem exec_shape_divwuoRc (rD rA rB : Reg) (s : State) : HasShape (.divwuoRc rD rA rB) s :=
  (show ComputesNext s _ from .divideUnsigned _ _ _ _ _ _ _).shape

theorem exec_shape_cmp (crfD : CrField) (l : BitVec 1) (rA rB : Reg) (s : State) : HasShape (.cmp crfD l rA rB) s :=
  (show ComputesNext s _ from .of_same rfl).shape

theorem exec_shape_cmpi (crfD : CrField) (l : BitVec 1) (rA : Reg) (simm : BitVec 16) (s : State) :
    HasShape (.cmpi crfD l rA simm) s :=
  (show ComputesNext s _ from .of_same rfl).shape

theorem exec_shape_cmpl (crfD : CrField) (l : BitVec 1) (rA rB : Reg) (s : State) : HasShape (.cmpl crfD l rA rB) s :=
  (show ComputesNext s _ from .of_same rfl).shape

theorem exec_shape_cmpli (crfD : CrField) (l : BitVec 1) (rA : Reg) (uimm : BitVec 16) (s : State) :
    HasShape (.cmpli crfD l rA uimm) s :=
  (show ComputesNext s _ from .of_same rfl).shape

theorem exec_shape_and (rA rS rB : Reg) (s : State) : HasShape (.and rA rS rB) s :=
  (show ComputesNext s _ from .finishLogical _ _ _ _).shape

theorem exec_shape_andRc (rA rS rB : Reg) (s : State) : HasShape (.andRc rA rS rB) s :=
  (show ComputesNext s _ from .finishLogical _ _ _ _).shape

theorem exec_shape_andc (rA rS rB : Reg) (s : State) : HasShape (.andc rA rS rB) s :=
  (show ComputesNext s _ from .finishLogical _ _ _ _).shape

theorem exec_shape_andcRc (rA rS rB : Reg) (s : State) : HasShape (.andcRc rA rS rB) s :=
  (show ComputesNext s _ from .finishLogical _ _ _ _).shape

theorem exec_shape_eqv (rA rS rB : Reg) (s : State) : HasShape (.eqv rA rS rB) s :=
  (show ComputesNext s _ from .finishLogical _ _ _ _).shape

theorem exec_shape_eqvRc (rA rS rB : Reg) (s : State) : HasShape (.eqvRc rA rS rB) s :=
  (show ComputesNext s _ from .finishLogical _ _ _ _).shape

theorem exec_shape_nand (rA rS rB : Reg) (s : State) : HasShape (.nand rA rS rB) s :=
  (show ComputesNext s _ from .finishLogical _ _ _ _).shape

theorem exec_shape_nandRc (rA rS rB : Reg) (s : State) : HasShape (.nandRc rA rS rB) s :=
  (show ComputesNext s _ from .finishLogical _ _ _ _).shape

theorem exec_shape_nor (rA rS rB : Reg) (s : State) : HasShape (.nor rA rS rB) s :=
  (show ComputesNext s _ from .finishLogical _ _ _ _).shape

theorem exec_shape_norRc (rA rS rB : Reg) (s : State) : HasShape (.norRc rA rS rB) s :=
  (show ComputesNext s _ from .finishLogical _ _ _ _).shape

theorem exec_shape_or (rA rS rB : Reg) (s : State) : HasShape (.or rA rS rB) s :=
  (show ComputesNext s _ from .finishLogical _ _ _ _).shape

theorem exec_shape_orRc (rA rS rB : Reg) (s : State) : HasShape (.orRc rA rS rB) s :=
  (show ComputesNext s _ from .finishLogical _ _ _ _).shape

theorem exec_shape_orc (rA rS rB : Reg) (s : State) : HasShape (.orc rA rS rB) s :=
  (show ComputesNext s _ from .finishLogical _ _ _ _).shape

theorem exec_shape_orcRc (rA rS rB : Reg) (s : State) : HasShape (.orcRc rA rS rB) s :=
  (show ComputesNext s _ from .finishLogical _ _ _ _).shape

theorem exec_shape_xor (rA rS rB : Reg) (s : State) : HasShape (.xor rA rS rB) s :=
  (show ComputesNext s _ from .finishLogical _ _ _ _).shape

theorem exec_shape_xorRc (rA rS rB : Reg) (s : State) : HasShape (.xorRc rA rS rB) s :=
  (show ComputesNext s _ from .finishLogical _ _ _ _).shape

theorem exec_shape_andiRc (rA rS : Reg) (uimm : BitVec 16) (s : State) : HasShape (.andiRc rA rS uimm) s :=
  (show ComputesNext s _ from .finishLogical _ _ _ _).shape

theorem exec_shape_andisRc (rA rS : Reg) (uimm : BitVec 16) (s : State) : HasShape (.andisRc rA rS uimm) s :=
  (show ComputesNext s _ from .finishLogical _ _ _ _).shape

theorem exec_shape_ori (rA rS : Reg) (uimm : BitVec 16) (s : State) : HasShape (.ori rA rS uimm) s :=
  (show ComputesNext s _ from .finishLogical _ _ _ _).shape

theorem exec_shape_oris (rA rS : Reg) (uimm : BitVec 16) (s : State) : HasShape (.oris rA rS uimm) s :=
  (show ComputesNext s _ from .finishLogical _ _ _ _).shape

theorem exec_shape_xori (rA rS : Reg) (uimm : BitVec 16) (s : State) : HasShape (.xori rA rS uimm) s :=
  (show ComputesNext s _ from .finishLogical _ _ _ _).shape

theorem exec_shape_xoris (rA rS : Reg) (uimm : BitVec 16) (s : State) : HasShape (.xoris rA rS uimm) s :=
  (show ComputesNext s _ from .finishLogical _ _ _ _).shape

theorem exec_shape_extsb (rA rS : Reg) (s : State) : HasShape (.extsb rA rS) s :=
  (show ComputesNext s _ from .finishLogical _ _ _ _).shape

theorem exec_shape_extsbRc (rA rS : Reg) (s : State) : HasShape (.extsbRc rA rS) s :=
  (show ComputesNext s _ from .finishLogical _ _ _ _).shape

theorem exec_shape_extsh (rA rS : Reg) (s : State) : HasShape (.extsh rA rS) s :=
  (show ComputesNext s _ from .finishLogical _ _ _ _).shape

theorem exec_shape_extshRc (rA rS : Reg) (s : State) : HasShape (.extshRc rA rS) s :=
  (show ComputesNext s _ from .finishLogical _ _ _ _).shape

theorem exec_shape_cntlzw (rA rS : Reg) (s : State) : HasShape (.cntlzw rA rS) s :=
  (show ComputesNext s _ from .finishLogical _ _ _ _).shape

theorem exec_shape_cntlzwRc (rA rS : Reg) (s : State) : HasShape (.cntlzwRc rA rS) s :=
  (show ComputesNext s _ from .finishLogical _ _ _ _).shape

theorem exec_shape_slw (rA rS rB : Reg) (s : State) : HasShape (.slw rA rS rB) s :=
  (show ComputesNext s _ from .finishLogical _ _ _ _).shape

theorem exec_shape_slwRc (rA rS rB : Reg) (s : State) : HasShape (.slwRc rA rS rB) s :=
  (show ComputesNext s _ from .finishLogical _ _ _ _).shape

theorem exec_shape_srw (rA rS rB : Reg) (s : State) : HasShape (.srw rA rS rB) s :=
  (show ComputesNext s _ from .finishLogical _ _ _ _).shape

theorem exec_shape_srwRc (rA rS rB : Reg) (s : State) : HasShape (.srwRc rA rS rB) s :=
  (show ComputesNext s _ from .finishLogical _ _ _ _).shape

theorem exec_shape_sraw (rA rS rB : Reg) (s : State) : HasShape (.sraw rA rS rB) s :=
  (show ComputesNext s _ from .shiftAlgebraic _ _ _ _ _).shape

theorem exec_shape_srawRc (rA rS rB : Reg) (s : State) : HasShape (.srawRc rA rS rB) s :=
  (show ComputesNext s _ from .shiftAlgebraic _ _ _ _ _).shape

theorem exec_shape_srawi (rA rS : Reg) (sh : BitVec 5) (s : State) : HasShape (.srawi rA rS sh) s :=
  (show ComputesNext s _ from .shiftAlgebraic _ _ _ _ _).shape

theorem exec_shape_srawiRc (rA rS : Reg) (sh : BitVec 5) (s : State) : HasShape (.srawiRc rA rS sh) s :=
  (show ComputesNext s _ from .shiftAlgebraic _ _ _ _ _).shape

theorem exec_shape_rlwimi (rA rS : Reg) (sh mb me : BitVec 5) (s : State) : HasShape (.rlwimi rA rS sh mb me) s :=
  (show ComputesNext s _ from .finishLogical _ _ _ _).shape

theorem exec_shape_rlwimiRc (rA rS : Reg) (sh mb me : BitVec 5) (s : State) : HasShape (.rlwimiRc rA rS sh mb me) s :=
  (show ComputesNext s _ from .finishLogical _ _ _ _).shape

theorem exec_shape_rlwinm (rA rS : Reg) (sh mb me : BitVec 5) (s : State) : HasShape (.rlwinm rA rS sh mb me) s :=
  (show ComputesNext s _ from .finishLogical _ _ _ _).shape

theorem exec_shape_rlwinmRc (rA rS : Reg) (sh mb me : BitVec 5) (s : State) : HasShape (.rlwinmRc rA rS sh mb me) s :=
  (show ComputesNext s _ from .finishLogical _ _ _ _).shape

theorem exec_shape_rlwnm (rA rS rB : Reg) (mb me : BitVec 5) (s : State) : HasShape (.rlwnm rA rS rB mb me) s :=
  (show ComputesNext s _ from .finishLogical _ _ _ _).shape

theorem exec_shape_rlwnmRc (rA rS rB : Reg) (mb me : BitVec 5) (s : State) : HasShape (.rlwnmRc rA rS rB mb me) s :=
  (show ComputesNext s _ from .finishLogical _ _ _ _).shape

theorem exec_shape_crand (crbD crbA crbB : CrBit) (s : State) : HasShape (.crand crbD crbA crbB) s :=
  (show ComputesNext s _ from .of_same rfl).shape

theorem exec_shape_crandc (crbD crbA crbB : CrBit) (s : State) : HasShape (.crandc crbD crbA crbB) s :=
  (show ComputesNext s _ from .of_same rfl).shape

theorem exec_shape_creqv (crbD crbA crbB : CrBit) (s : State) : HasShape (.creqv crbD crbA crbB) s :=
  (show ComputesNext s _ from .of_same rfl).shape

theorem exec_shape_crnand (crbD crbA crbB : CrBit) (s : State) : HasShape (.crnand crbD crbA crbB) s :=
  (show ComputesNext s _ from .of_same rfl).shape

theorem exec_shape_crnor (crbD crbA crbB : CrBit) (s : State) : HasShape (.crnor crbD crbA crbB) s :=
  (show ComputesNext s _ from .of_same rfl).shape

theorem exec_shape_cror (crbD crbA crbB : CrBit) (s : State) : HasShape (.cror crbD crbA crbB) s :=
  (show ComputesNext s _ from .of_same rfl).shape

theorem exec_shape_crorc (crbD crbA crbB : CrBit) (s : State) : HasShape (.crorc crbD crbA crbB) s :=
  (show ComputesNext s _ from .of_same rfl).shape

theorem exec_shape_crxor (crbD crbA crbB : CrBit) (s : State) : HasShape (.crxor crbD crbA crbB) s :=
  (show ComputesNext s _ from .of_same rfl).shape

theorem exec_shape_mcrf (crfD crfS : CrField) (s : State) : HasShape (.mcrf crfD crfS) s :=
  (show ComputesNext s _ from .of_same rfl).shape

theorem exec_shape_lbz (rD rA : Reg) (d : BitVec 16) (s : State) : HasShape (.lbz rD rA d) s :=
  (show ComputesNext s _ from .of_same rfl).shape

theorem exec_shape_lbzx (rD rA rB : Reg) (s : State) : HasShape (.lbzx rD rA rB) s :=
  (show ComputesNext s _ from .of_same rfl).shape

theorem exec_shape_lbzu (rD rA : Reg) (d : BitVec 16) (s : State) : HasShape (.lbzu rD rA d) s :=
  (show ComputesNext s _ from .of_same rfl).shape

theorem exec_shape_lbzux (rD rA rB : Reg) (s : State) : HasShape (.lbzux rD rA rB) s :=
  (show ComputesNext s _ from .of_same rfl).shape

theorem exec_shape_lhz (rD rA : Reg) (d : BitVec 16) (s : State) : HasShape (.lhz rD rA d) s :=
  (show ComputesNext s _ from .of_same rfl).shape

theorem exec_shape_lhzx (rD rA rB : Reg) (s : State) : HasShape (.lhzx rD rA rB) s :=
  (show ComputesNext s _ from .of_same rfl).shape

theorem exec_shape_lhzu (rD rA : Reg) (d : BitVec 16) (s : State) : HasShape (.lhzu rD rA d) s :=
  (show ComputesNext s _ from .of_same rfl).shape

theorem exec_shape_lhzux (rD rA rB : Reg) (s : State) : HasShape (.lhzux rD rA rB) s :=
  (show ComputesNext s _ from .of_same rfl).shape

theorem exec_shape_lha (rD rA : Reg) (d : BitVec 16) (s : State) : HasShape (.lha rD rA d) s :=
  (show ComputesNext s _ from .of_same rfl).shape

theorem exec_shape_lhax (rD rA rB : Reg) (s : State) : HasShape (.lhax rD rA rB) s :=
  (show ComputesNext s _ from .of_same rfl).shape

theorem exec_shape_lhau (rD rA : Reg) (d : BitVec 16) (s : State) : HasShape (.lhau rD rA d) s :=
  (show ComputesNext s _ from .of_same rfl).shape

theorem exec_shape_lhaux (rD rA rB : Reg) (s : State) : HasShape (.lhaux rD rA rB) s :=
  (show ComputesNext s _ from .of_same rfl).shape

theorem exec_shape_lwz (rD rA : Reg) (d : BitVec 16) (s : State) : HasShape (.lwz rD rA d) s :=
  (show ComputesNext s _ from .of_same rfl).shape

theorem exec_shape_lwzx (rD rA rB : Reg) (s : State) : HasShape (.lwzx rD rA rB) s :=
  (show ComputesNext s _ from .of_same rfl).shape

theorem exec_shape_lwzu (rD rA : Reg) (d : BitVec 16) (s : State) : HasShape (.lwzu rD rA d) s :=
  (show ComputesNext s _ from .of_same rfl).shape

theorem exec_shape_lwzux (rD rA rB : Reg) (s : State) : HasShape (.lwzux rD rA rB) s :=
  (show ComputesNext s _ from .of_same rfl).shape

theorem exec_shape_lhbrx (rD rA rB : Reg) (s : State) : HasShape (.lhbrx rD rA rB) s :=
  (show ComputesNext s _ from .of_same rfl).shape

theorem exec_shape_lwbrx (rD rA rB : Reg) (s : State) : HasShape (.lwbrx rD rA rB) s :=
  (show ComputesNext s _ from .of_same rfl).shape

theorem exec_shape_lmw (rD rA : Reg) (d : BitVec 16) (s : State) : HasShape (.lmw rD rA d) s :=
  (show ComputesNext s _ from .loadMultiple _ _ _ _).shape

theorem exec_shape_lswi (rD rA : Reg) (n : Nat) (s : State) : HasShape (.lswi rD rA n) s :=
  (show ComputesNext s _ from .stringLoad _ _ _ _ _).shape

theorem exec_shape_lswx (rD rA rB : Reg) (s : State) : HasShape (.lswx rD rA rB) s :=
  (show ComputesNext s _ from .stringLoad _ _ _ _ _).shape

theorem exec_shape_stb (rS rA : Reg) (d : BitVec 16) (s : State) : HasShape (.stb rS rA d) s :=
  .of_plain rfl rfl (.writeByte _ _ _)

theorem exec_shape_stbx (rS rA rB : Reg) (s : State) : HasShape (.stbx rS rA rB) s :=
  .of_plain rfl rfl (.writeByte _ _ _)

theorem exec_shape_stbu (rS rA : Reg) (d : BitVec 16) (s : State) : HasShape (.stbu rS rA d) s :=
  .of_update rfl rfl (.writeByte _ _ _)

theorem exec_shape_stbux (rS rA rB : Reg) (s : State) : HasShape (.stbux rS rA rB) s :=
  .of_update rfl rfl (.writeByte _ _ _)

theorem exec_shape_sth (rS rA : Reg) (d : BitVec 16) (s : State) : HasShape (.sth rS rA d) s :=
  .of_plain rfl rfl (.writeHalf _ _ _)

theorem exec_shape_sthx (rS rA rB : Reg) (s : State) : HasShape (.sthx rS rA rB) s :=
  .of_plain rfl rfl (.writeHalf _ _ _)

theorem exec_shape_sthu (rS rA : Reg) (d : BitVec 16) (s : State) : HasShape (.sthu rS rA d) s :=
  .of_update rfl rfl (.writeHalf _ _ _)

theorem exec_shape_sthux (rS rA rB : Reg) (s : State) : HasShape (.sthux rS rA rB) s :=
  .of_update rfl rfl (.writeHalf _ _ _)

theorem exec_shape_stw (rS rA : Reg) (d : BitVec 16) (s : State) : HasShape (.stw rS rA d) s :=
  .of_plain rfl rfl (.writeWord _ _ _)

theorem exec_shape_stwx (rS rA rB : Reg) (s : State) : HasShape (.stwx rS rA rB) s :=
  .of_plain rfl rfl (.writeWord _ _ _)

theorem exec_shape_stwu (rS rA : Reg) (d : BitVec 16) (s : State) : HasShape (.stwu rS rA d) s :=
  .of_update rfl rfl (.writeWord _ _ _)

theorem exec_shape_stwux (rS rA rB : Reg) (s : State) : HasShape (.stwux rS rA rB) s :=
  .of_update rfl rfl (.writeWord _ _ _)

theorem exec_shape_sthbrx (rS rA rB : Reg) (s : State) : HasShape (.sthbrx rS rA rB) s :=
  .of_plain rfl rfl (.writeHalfRev _ _ _)

theorem exec_shape_stwbrx (rS rA rB : Reg) (s : State) : HasShape (.stwbrx rS rA rB) s :=
  .of_plain rfl rfl (.writeWordRev _ _ _)

theorem exec_shape_stmw (rS rA : Reg) (d : BitVec 16) (s : State) : HasShape (.stmw rS rA d) s :=
  .of_plain rfl rfl (.storeMultiple _ _ _ _ _)

theorem exec_shape_stswi (rS rA : Reg) (n : Nat) (s : State) : HasShape (.stswi rS rA n) s :=
  .of_plain rfl rfl (.storeString _ _ _ _ _ _ _ _)

theorem exec_shape_stswx (rS rA rB : Reg) (s : State) : HasShape (.stswx rS rA rB) s :=
  .of_plain rfl rfl (.storeString _ _ _ _ _ _ _ _)

theorem exec_shape_mfspr (rD : Reg) (n : Nat) (s : State) : HasShape (.mfspr rD n) s := by
  cases h : sprOf n with
  | none => exact ⟨s.fatalStop .spr, by simp [exec, execMfspr, h, State.halt], .stops n rD h (.inr rfl) rfl⟩
  | some x =>
    obtain ⟨t, h1, h2, h3⟩ := ComputesNext.of_same (s0 := s) (s := s.writeGpr rD (s.readSpr x)) rfl
    exact ⟨t, by simp only [exec, execMfspr, h]; exact h1, .computes h2 h3⟩

theorem exec_shape_mtspr (n : Nat) (rS : Reg) (s : State) : HasShape (.mtspr n rS) s := by
  cases h : sprOf n with
  | none => exact ⟨s.fatalStop .spr, by simp [exec, execMtspr, h, State.halt], .stops n rS h (.inl rfl) rfl⟩
  | some x =>
    exact ⟨(s.writeSpr x (s.readGpr rS)).setPc (s.pc + 4#32),
      by cases x <;> simp [exec, execMtspr, h, State.complete, State.writeSpr], .writesSpr n rS x rfl h rfl⟩

theorem exec_shape_mfcr (rD : Reg) (s : State) : HasShape (.mfcr rD) s :=
  (show ComputesNext s _ from .of_same rfl).shape

theorem exec_shape_mtcrf (crm : BitVec 8) (rS : Reg) (s : State) : HasShape (.mtcrf crm rS) s :=
  (show ComputesNext s _ from .of_same rfl).shape

theorem exec_shape_mcrxr (crfD : CrField) (s : State) : HasShape (.mcrxr crfD) s := by
  refine ⟨_, rfl, .mcrxr crfD rfl ⟨rfl, rfl, rfl, rfl, rfl, rfl, rfl, rfl, rfl, rfl, fun k hk => ?_⟩⟩
  change (s.xer &&& 0x1FFFFFFF#32).getLsbD k = _
  have : (0x1FFFFFFF#32).getLsbD k = true := by interval_cases k <;> rfl
  rw [BitVec.getLsbD_and, this, Bool.and_true]

theorem exec_shape_sc (s : State) : HasShape (.sc) s :=
  (show ComputesNext s _ from .of_same rfl).shape

/-- Every instruction, in every state, answers a next state of one of the six shapes. -/
theorem exec_shape (i : Instr) (s : State) : HasShape i s := by
  cases i with
  | b _ => exact exec_shape_b ..
  | ba _ => exact exec_shape_ba ..
  | bl _ => exact exec_shape_bl ..
  | bla _ => exact exec_shape_bla ..
  | bc _ _ _ => exact exec_shape_bc ..
  | bca _ _ _ => exact exec_shape_bca ..
  | bcl _ _ _ => exact exec_shape_bcl ..
  | bcla _ _ _ => exact exec_shape_bcla ..
  | bclr _ _ => exact exec_shape_bclr ..
  | bclrl _ _ => exact exec_shape_bclrl ..
  | bcctr _ _ => exact exec_shape_bcctr ..
  | bcctrl _ _ => exact exec_shape_bcctrl ..
  | add _ _ _ => exact exec_shape_add ..
  | addRc _ _ _ => exact exec_shape_addRc ..
  | addo _ _ _ => exact exec_shape_addo ..
  | addoRc _ _ _ => exact exec_shape_addoRc ..
  | addc _ _ _ => exact exec_shape_addc ..
  | addcRc _ _ _ => exact exec_shape_addcRc ..
  | addco _ _ _ => exact exec_shape_addco ..
  | addcoRc _ _ _ => exact exec_shape_addcoRc ..
  | adde _ _ _ => exact exec_shape_adde ..
  | addeRc _ _ _ => exact exec_shape_addeRc ..
  | addeo _ _ _ => exact exec_shape_addeo ..
  | addeoRc _ _ _ => exact exec_shape_addeoRc ..
  | addme _ _ => exact exec_shape_addme ..
  | addmeRc _ _ => exact exec_shape_addmeRc ..
  | addmeo _ _ => exact exec_shape_addmeo ..
  | addmeoRc _ _ => exact exec_shape_addmeoRc ..
  | addze _ _ => exact exec_shape_addze ..
  | addzeRc _ _ => exact exec_shape_addzeRc ..
  | addzeo _ _ => exact exec_shape_addzeo ..
  | addzeoRc _ _ => exact exec_shape_addzeoRc ..
  | subf _ _ _ => exact exec_shape_subf ..
  | subfRc _ _ _ => exact exec_shape_subfRc ..
  | subfo _ _ _ => exact exec_shape_subfo ..
  | subfoRc _ _ _ => exact exec_shape_subfoRc ..
  | subfc _ _ _ => exact exec_shape_subfc ..
  | subfcRc _ _ _ => exact exec_shape_subfcRc ..
  | subfco _ _ _ => exact exec_shape_subfco ..
  | subfcoRc _ _ _ => exact exec_shape_subfcoRc ..
  | subfe _ _ _ => exact exec_shape_subfe ..
  | subfeRc _ _ _ => exact exec_shape_subfeRc ..
  | subfeo _ _ _ => exact exec_shape_subfeo ..
  | subfeoRc _ _ _ => exact exec_shape_subfeoRc ..
  | subfme _ _ => exact exec_shape_subfme ..
  | subfmeRc _ _ => exact exec_shape_subfmeRc ..
  | subfmeo _ _ => exact exec_shape_subfmeo ..
  | subfmeoRc _ _ => exact exec_shape_subfmeoRc ..
  | subfze _ _ => exact exec_shape_subfze ..
  | subfzeRc _ _ => exact exec_shape_subfzeRc ..
  | subfzeo _ _ => exact exec_shape_subfzeo ..
  | subfzeoRc _ _ => exact exec_shape_subfzeoRc ..
  | neg _ _ => exact exec_shape_neg ..
  | negRc _ _ => exact exec_shape_negRc ..
  | nego _ _ => exact exec_shape_nego ..
  | negoRc _ _ => exact exec_shape_negoRc ..
  | addi _ _ _ => exact exec_shape_addi ..
  | addis _ _ _ => exact exec_shape_addis ..
  | addic _ _ _ => exact exec_shape_addic ..
  | addicRc _ _ _ => exact exec_shape_addicRc ..
  | subfic _ _ _ => exact exec_shape_subfic ..
  | mullw _ _ _ => exact exec_shape_mullw ..
  | mullwRc _ _ _ => exact exec_shape_mullwRc ..
  | mullwo _ _ _ => exact exec_shape_mullwo ..
  | mullwoRc _ _ _ => exact exec_shape_mullwoRc ..
  | mulhw _ _ _ => exact exec_shape_mulhw ..
  | mulhwRc _ _ _ => exact exec_shape_mulhwRc ..
  | mulhwu _ _ _ => exact exec_shape_mulhwu ..
  | mulhwuRc _ _ _ => exact exec_shape_mulhwuRc ..
  | mulli _ _ _ => exact exec_shape_mulli ..
  | divw _ _ _ => exact exec_shape_divw ..
  | divwRc _ _ _ => exact exec_shape_divwRc ..
  | divwo _ _ _ => exact exec_shape_divwo ..
  | divwoRc _ _ _ => exact exec_shape_divwoRc ..
  | divwu _ _ _ => exact exec_shape_divwu ..
  | divwuRc _ _ _ => exact exec_shape_divwuRc ..
  | divwuo _ _ _ => exact exec_shape_divwuo ..
  | divwuoRc _ _ _ => exact exec_shape_divwuoRc ..
  | cmp _ _ _ _ => exact exec_shape_cmp ..
  | cmpi _ _ _ _ => exact exec_shape_cmpi ..
  | cmpl _ _ _ _ => exact exec_shape_cmpl ..
  | cmpli _ _ _ _ => exact exec_shape_cmpli ..
  | and _ _ _ => exact exec_shape_and ..
  | andRc _ _ _ => exact exec_shape_andRc ..
  | andc _ _ _ => exact exec_shape_andc ..
  | andcRc _ _ _ => exact exec_shape_andcRc ..
  | eqv _ _ _ => exact exec_shape_eqv ..
  | eqvRc _ _ _ => exact exec_shape_eqvRc ..
  | nand _ _ _ => exact exec_shape_nand ..
  | nandRc _ _ _ => exact exec_shape_nandRc ..
  | nor _ _ _ => exact exec_shape_nor ..
  | norRc _ _ _ => exact exec_shape_norRc ..
  | or _ _ _ => exact exec_shape_or ..
  | orRc _ _ _ => exact exec_shape_orRc ..
  | orc _ _ _ => exact exec_shape_orc ..
  | orcRc _ _ _ => exact exec_shape_orcRc ..
  | xor _ _ _ => exact exec_shape_xor ..
  | xorRc _ _ _ => exact exec_shape_xorRc ..
  | andiRc _ _ _ => exact exec_shape_andiRc ..
  | andisRc _ _ _ => exact exec_shape_andisRc ..
  | ori _ _ _ => exact exec_shape_ori ..
  | oris _ _ _ => exact exec_shape_oris ..
  | xori _ _ _ => exact exec_shape_xori ..
  | xoris _ _ _ => exact exec_shape_xoris ..
  | extsb _ _ => exact exec_shape_extsb ..
  | extsbRc _ _ => exact exec_shape_extsbRc ..
  | extsh _ _ => exact exec_shape_extsh ..
  | extshRc _ _ => exact exec_shape_extshRc ..
  | cntlzw _ _ => exact exec_shape_cntlzw ..
  | cntlzwRc _ _ => exact exec_shape_cntlzwRc ..
  | slw _ _ _ => exact exec_shape_slw ..
  | slwRc _ _ _ => exact exec_shape_slwRc ..
  | srw _ _ _ => exact exec_shape_srw ..
  | srwRc _ _ _ => exact exec_shape_srwRc ..
  | sraw _ _ _ => exact exec_shape_sraw ..
  | srawRc _ _ _ => exact exec_shape_srawRc ..
  | srawi _ _ _ => exact exec_shape_srawi ..
  | srawiRc _ _ _ => exact exec_shape_srawiRc ..
  | rlwimi _ _ _ _ _ => exact exec_shape_rlwimi ..
  | rlwimiRc _ _ _ _ _ => exact exec_shape_rlwimiRc ..
  | rlwinm _ _ _ _ _ => exact exec_shape_rlwinm ..
  | rlwinmRc _ _ _ _ _ => exact exec_shape_rlwinmRc ..
  | rlwnm _ _ _ _ _ => exact exec_shape_rlwnm ..
  | rlwnmRc _ _ _ _ _ => exact exec_shape_rlwnmRc ..
  | crand _ _ _ => exact exec_shape_crand ..
  | crandc _ _ _ => exact exec_shape_crandc ..
  | creqv _ _ _ => exact exec_shape_creqv ..
  | crnand _ _ _ => exact exec_shape_crnand ..
  | crnor _ _ _ => exact exec_shape_crnor ..
  | cror _ _ _ => exact exec_shape_cror ..
  | crorc _ _ _ => exact exec_shape_crorc ..
  | crxor _ _ _ => exact exec_shape_crxor ..
  | mcrf _ _ => exact exec_shape_mcrf ..
  | lbz _ _ _ => exact exec_shape_lbz ..
  | lbzx _ _ _ => exact exec_shape_lbzx ..
  | lbzu _ _ _ => exact exec_shape_lbzu ..
  | lbzux _ _ _ => exact exec_shape_lbzux ..
  | lhz _ _ _ => exact exec_shape_lhz ..
  | lhzx _ _ _ => exact exec_shape_lhzx ..
  | lhzu _ _ _ => exact exec_shape_lhzu ..
  | lhzux _ _ _ => exact exec_shape_lhzux ..
  | lha _ _ _ => exact exec_shape_lha ..
  | lhax _ _ _ => exact exec_shape_lhax ..
  | lhau _ _ _ => exact exec_shape_lhau ..
  | lhaux _ _ _ => exact exec_shape_lhaux ..
  | lwz _ _ _ => exact exec_shape_lwz ..
  | lwzx _ _ _ => exact exec_shape_lwzx ..
  | lwzu _ _ _ => exact exec_shape_lwzu ..
  | lwzux _ _ _ => exact exec_shape_lwzux ..
  | lhbrx _ _ _ => exact exec_shape_lhbrx ..
  | lwbrx _ _ _ => exact exec_shape_lwbrx ..
  | lmw _ _ _ => exact exec_shape_lmw ..
  | lswi _ _ _ => exact exec_shape_lswi ..
  | lswx _ _ _ => exact exec_shape_lswx ..
  | stb _ _ _ => exact exec_shape_stb ..
  | stbx _ _ _ => exact exec_shape_stbx ..
  | stbu _ _ _ => exact exec_shape_stbu ..
  | stbux _ _ _ => exact exec_shape_stbux ..
  | sth _ _ _ => exact exec_shape_sth ..
  | sthx _ _ _ => exact exec_shape_sthx ..
  | sthu _ _ _ => exact exec_shape_sthu ..
  | sthux _ _ _ => exact exec_shape_sthux ..
  | stw _ _ _ => exact exec_shape_stw ..
  | stwx _ _ _ => exact exec_shape_stwx ..
  | stwu _ _ _ => exact exec_shape_stwu ..
  | stwux _ _ _ => exact exec_shape_stwux ..
  | sthbrx _ _ _ => exact exec_shape_sthbrx ..
  | stwbrx _ _ _ => exact exec_shape_stwbrx ..
  | stmw _ _ _ => exact exec_shape_stmw ..
  | stswi _ _ _ => exact exec_shape_stswi ..
  | stswx _ _ _ => exact exec_shape_stswx ..
  | mfspr _ _ => exact exec_shape_mfspr ..
  | mtspr _ _ => exact exec_shape_mtspr ..
  | mfcr _ => exact exec_shape_mfcr ..
  | mtcrf _ _ => exact exec_shape_mtcrf ..
  | mcrxr _ => exact exec_shape_mcrxr ..
  | sc => exact exec_shape_sc ..

/-- The same, read from the next state. -/
theorem shape_of_exec {i : Instr} {s t : State} (h : exec i s = .next t) : Shape i s t := by
  obtain ⟨t', h', hs⟩ := exec_shape i s
  exact Host.Outcome.next.inj (h.symm.trans h') ▸ hs

end Sys2Proof.Machine
end

