-- ==== Sys2Proof/Tests/Slice0.lean ====
section
/-! SUPPORT. The model's own tests: ill-formed terms refused, every instruction's decoding from the words the spec
writes out, one step of the spec's examples, and for every statement with hypotheses a state and operands that meet
them. -/

open Sys2Proof Sys2Proof.Machine

namespace Sys2Proof.Tests

-- One kernel evaluation after the other: side by side they ask for more threads than the check's memory holds.
set_option Elab.async false

/-- A running core at pc 0x1000 with the listed debug-port registers and memory bytes, and the word at pc. -/
def start (regs : List (Nat × Word)) (bytes : List (Word × Byte)) (word : Nat) : State :=
  let s := regs.foldl (fun s p => s.regWrite p.1 p.2) (State.reset.setPc 0x1000#32)
  (bytes.foldl (fun s p => s.memWrite p.1 p.2) s).withFetchWord 32 word

/-- The listed debug-port registers and memory bytes after one step. -/
def after (s : State) (regs : List Nat) (bytes : List Word) : Option (List Word × List Byte) :=
  match step s with
  | .next t => some (regs.map t.regRead, bytes.map t.memRead)
  | _ => none

/-- The step answers a next state with the property. -/
def holdsAfter (s : State) (p : State → Bool) : Bool :=
  match step s with
  | .next t => p t
  | _ => false

theorem holdsAfter_next (s : State) (p : State → Bool) (h : holdsAfter s p = true) :
    ∃ t, step s = .next t ∧ p t = true := by
  unfold holdsAfter at h
  split at h
  · exact ⟨_, ‹_›, h⟩
  · exact absurd h (by simp)

/-- The step is refused for the misaligned pc. -/
def isRefused (s : State) : Bool :=
  match step s with
  | .refused .misalignedPc => true
  | _ => false

/-! ## Well-formedness -/

/-- The byte count of a string move is 1 to 32. -/
theorem test_wf_refuses_byte_counts :
    (Instr.lswi 3#5 4#5 0).wf = false ∧ (Instr.lswi 3#5 4#5 33).wf = false ∧ (Instr.stswi 3#5 4#5 0).wf = false ∧
      (Instr.stswi 3#5 4#5 33).wf = false := by decide

/-- An SPR number has ten bits. -/
theorem test_wf_refuses_spr_numbers :
    (Instr.mfspr 3#5 1024).wf = false ∧ (Instr.mtspr 1024 3#5).wf = false := by decide

/-! ## Decoding -/

/-- The words of the examples of spec/41_branch.md, each with the instruction its text names. -/
theorem test_decode_branch :
    ([(0x4BFFFFF8, .b 0xFFFFFE#24),
      (0x48000102, .ba 0x40#24),
      (0x48000011, .bl 0x4#24),
      (0x4BFFFFFF, .bla 0xFFFFFF#24),
      (0x41820020, .bc 12#5 2#5 0x8#14),
      (0x42800202, .bca 20#5 0#5 0x80#14),
      (0x429F0005, .bcl 20#5 31#5 0x1#14),
      (0x40800103, .bcla 4#5 0#5 0x40#14),
      (0x4E800020, .bclr 20#5 0#5),
      (0x4E800021, .bclrl 20#5 0#5),
      (0x4E800420, .bcctr 20#5 0#5),
      (0x4D810421, .bcctrl 12#5 1#5)] : List (Nat × Instr)).all
      (fun p => decodeTableWord 32 p.1 == some p.2) = true := by decide +kernel

/-- The words of the examples of spec/42_add_sub.md, each with the instruction its text names. -/
theorem test_decode_add_sub_1 :
    ([(0x7C642A14, .add 3#5 4#5 5#5),
      (0x7C642A15, .addRc 3#5 4#5 5#5),
      (0x7C642E14, .addo 3#5 4#5 5#5),
      (0x7C642E15, .addoRc 3#5 4#5 5#5),
      (0x7C642814, .addc 3#5 4#5 5#5),
      (0x7C642815, .addcRc 3#5 4#5 5#5),
      (0x7C642C14, .addco 3#5 4#5 5#5),
      (0x7C642C15, .addcoRc 3#5 4#5 5#5),
      (0x7C642914, .adde 3#5 4#5 5#5),
      (0x7C642915, .addeRc 3#5 4#5 5#5),
      (0x7C642D14, .addeo 3#5 4#5 5#5),
      (0x7C642D15, .addeoRc 3#5 4#5 5#5),
      (0x7C6401D4, .addme 3#5 4#5),
      (0x7C6401D5, .addmeRc 3#5 4#5),
      (0x7C6405D4, .addmeo 3#5 4#5),
      (0x7C6405D5, .addmeoRc 3#5 4#5),
      (0x7C640194, .addze 3#5 4#5),
      (0x7C640195, .addzeRc 3#5 4#5),
      (0x7C640594, .addzeo 3#5 4#5),
      (0x7C640595, .addzeoRc 3#5 4#5),
      (0x7C642850, .subf 3#5 4#5 5#5),
      (0x7C642851, .subfRc 3#5 4#5 5#5),
      (0x7C642C50, .subfo 3#5 4#5 5#5),
      (0x7C642C51, .subfoRc 3#5 4#5 5#5),
      (0x7C642810, .subfc 3#5 4#5 5#5)] : List (Nat × Instr)).all
      (fun p => decodeTableWord 32 p.1 == some p.2) = true := by decide +kernel

/-- The words of the examples of spec/42_add_sub.md, each with the instruction its text names. -/
theorem test_decode_add_sub_2 :
    ([(0x7C642811, .subfcRc 3#5 4#5 5#5),
      (0x7C642C10, .subfco 3#5 4#5 5#5),
      (0x7C642C11, .subfcoRc 3#5 4#5 5#5),
      (0x7C642910, .subfe 3#5 4#5 5#5),
      (0x7C642911, .subfeRc 3#5 4#5 5#5),
      (0x7C642D10, .subfeo 3#5 4#5 5#5),
      (0x7C642D11, .subfeoRc 3#5 4#5 5#5),
      (0x7C6401D0, .subfme 3#5 4#5),
      (0x7C6401D1, .subfmeRc 3#5 4#5),
      (0x7C6405D0, .subfmeo 3#5 4#5),
      (0x7C6405D1, .subfmeoRc 3#5 4#5),
      (0x7C640190, .subfze 3#5 4#5),
      (0x7C640191, .subfzeRc 3#5 4#5),
      (0x7C640590, .subfzeo 3#5 4#5),
      (0x7C640591, .subfzeoRc 3#5 4#5),
      (0x7C6400D0, .neg 3#5 4#5),
      (0x7C6400D1, .negRc 3#5 4#5),
      (0x7C6404D0, .nego 3#5 4#5),
      (0x7C6404D1, .negoRc 3#5 4#5),
      (0x3864FFFF, .addi 3#5 4#5 0xFFFF#16),
      (0x3C601234, .addis 3#5 0#5 0x1234#16),
      (0x30640001, .addic 3#5 4#5 0x1#16),
      (0x3464FFFF, .addicRc 3#5 4#5 0xFFFF#16),
      (0x2064000A, .subfic 3#5 4#5 0xA#16)] : List (Nat × Instr)).all
      (fun p => decodeTableWord 32 p.1 == some p.2) = true := by decide +kernel

/-- The words of the examples of spec/43_mul_div_cmp.md, each with the instruction its text names. -/
theorem test_decode_mul_div_cmp :
    ([(0x7C6429D6, .mullw 3#5 4#5 5#5),
      (0x7C6429D7, .mullwRc 3#5 4#5 5#5),
      (0x7C642DD6, .mullwo 3#5 4#5 5#5),
      (0x7C642DD7, .mullwoRc 3#5 4#5 5#5),
      (0x7C642896, .mulhw 3#5 4#5 5#5),
      (0x7C642897, .mulhwRc 3#5 4#5 5#5),
      (0x7C642816, .mulhwu 3#5 4#5 5#5),
      (0x7C642817, .mulhwuRc 3#5 4#5 5#5),
      (0x1C64FFFE, .mulli 3#5 4#5 0xFFFE#16),
      (0x7C642BD6, .divw 3#5 4#5 5#5),
      (0x7C642BD7, .divwRc 3#5 4#5 5#5),
      (0x7C642FD6, .divwo 3#5 4#5 5#5),
      (0x7C642FD7, .divwoRc 3#5 4#5 5#5),
      (0x7C642B96, .divwu 3#5 4#5 5#5),
      (0x7C642B97, .divwuRc 3#5 4#5 5#5),
      (0x7C642F96, .divwuo 3#5 4#5 5#5),
      (0x7C642F97, .divwuoRc 3#5 4#5 5#5),
      (0x7D042800, .cmp 2#3 0#1 4#5 5#5),
      (0x2D040001, .cmpi 2#3 0#1 4#5 0x1#16),
      (0x7D042840, .cmpl 2#3 0#1 4#5 5#5),
      (0x2904FFFF, .cmpli 2#3 0#1 4#5 0xFFFF#16)] : List (Nat × Instr)).all
      (fun p => decodeTableWord 32 p.1 == some p.2) = true := by decide +kernel

/-- The words of the examples of spec/44_logical.md, each with the instruction its text names. -/
theorem test_decode_logical_1 :
    ([(0x7C642838, .and 4#5 3#5 5#5),
      (0x7C642839, .andRc 4#5 3#5 5#5),
      (0x7C642878, .andc 4#5 3#5 5#5),
      (0x7C642879, .andcRc 4#5 3#5 5#5),
      (0x7C642A38, .eqv 4#5 3#5 5#5),
      (0x7C642A39, .eqvRc 4#5 3#5 5#5),
      (0x7C642BB8, .nand 4#5 3#5 5#5),
      (0x7C642BB9, .nandRc 4#5 3#5 5#5),
      (0x7C6428F8, .nor 4#5 3#5 5#5),
      (0x7C6428F9, .norRc 4#5 3#5 5#5),
      (0x7C642B78, .or 4#5 3#5 5#5),
      (0x7C642B79, .orRc 4#5 3#5 5#5),
      (0x7C642B38, .orc 4#5 3#5 5#5),
      (0x7C642B39, .orcRc 4#5 3#5 5#5),
      (0x7C642A78, .xor 4#5 3#5 5#5),
      (0x7C642A79, .xorRc 4#5 3#5 5#5),
      (0x70648001, .andiRc 4#5 3#5 0x8001#16),
      (0x74648001, .andisRc 4#5 3#5 0x8001#16),
      (0x60648001, .ori 4#5 3#5 0x8001#16),
      (0x64648001, .oris 4#5 3#5 0x8001#16),
      (0x68648001, .xori 4#5 3#5 0x8001#16),
      (0x6C648001, .xoris 4#5 3#5 0x8001#16),
      (0x7C640774, .extsb 4#5 3#5),
      (0x7C640775, .extsbRc 4#5 3#5),
      (0x7C640734, .extsh 4#5 3#5)] : List (Nat × Instr)).all
      (fun p => decodeTableWord 32 p.1 == some p.2) = true := by decide +kernel

/-- The words of the examples of spec/44_logical.md, each with the instruction its text names. -/
theorem test_decode_logical_2 :
    ([(0x7C640735, .extshRc 4#5 3#5),
      (0x7C640034, .cntlzw 4#5 3#5),
      (0x7C640035, .cntlzwRc 4#5 3#5)] : List (Nat × Instr)).all
      (fun p => decodeTableWord 32 p.1 == some p.2) = true := by decide +kernel

/-- The words of the examples of spec/45_shift_rotate.md, each with the instruction its text names. -/
theorem test_decode_shift_rotate :
    ([(0x7C642830, .slw 4#5 3#5 5#5),
      (0x7C642831, .slwRc 4#5 3#5 5#5),
      (0x7C642C30, .srw 4#5 3#5 5#5),
      (0x7C642C31, .srwRc 4#5 3#5 5#5),
      (0x7C642E30, .sraw 4#5 3#5 5#5),
      (0x7C642E31, .srawRc 4#5 3#5 5#5),
      (0x7C642670, .srawi 4#5 3#5 4#5),
      (0x7C642671, .srawiRc 4#5 3#5 4#5),
      (0x5064442E, .rlwimi 4#5 3#5 8#5 16#5 23#5),
      (0x5064442F, .rlwimiRc 4#5 3#5 8#5 16#5 23#5),
      (0x5464463E, .rlwinm 4#5 3#5 8#5 24#5 31#5),
      (0x5464463F, .rlwinmRc 4#5 3#5 8#5 24#5 31#5),
      (0x5C642F06, .rlwnm 4#5 3#5 5#5 28#5 3#5),
      (0x5C642F07, .rlwnmRc 4#5 3#5 5#5 28#5 3#5)] : List (Nat × Instr)).all
      (fun p => decodeTableWord 32 p.1 == some p.2) = true := by decide +kernel

/-- The words of the examples of spec/46_cr_logical.md, each with the instruction its text names. -/
theorem test_decode_cr_logical :
    ([(0x4CC11202, .crand 6#5 1#5 2#5),
      (0x4CC11102, .crandc 6#5 1#5 2#5),
      (0x4CC11242, .creqv 6#5 1#5 2#5),
      (0x4CC111C2, .crnand 6#5 1#5 2#5),
      (0x4CC11042, .crnor 6#5 1#5 2#5),
      (0x4CC11382, .cror 6#5 1#5 2#5),
      (0x4CC11342, .crorc 6#5 1#5 2#5),
      (0x4CC11182, .crxor 6#5 1#5 2#5),
      (0x4C1C0000, .mcrf 0#3 7#3)] : List (Nat × Instr)).all
      (fun p => decodeTableWord 32 p.1 == some p.2) = true := by decide +kernel

/-- The words of the examples of spec/47_load.md, each with the instruction its text names. -/
theorem test_decode_load :
    ([(0x8864FFFC, .lbz 3#5 4#5 0xFFFC#16),
      (0x7C6428AE, .lbzx 3#5 4#5 5#5),
      (0x8C64FFFC, .lbzu 3#5 4#5 0xFFFC#16),
      (0x7C6428EE, .lbzux 3#5 4#5 5#5),
      (0xA064FFFC, .lhz 3#5 4#5 0xFFFC#16),
      (0x7C642A2E, .lhzx 3#5 4#5 5#5),
      (0xA464FFFC, .lhzu 3#5 4#5 0xFFFC#16),
      (0x7C642A6E, .lhzux 3#5 4#5 5#5),
      (0xA864FFFC, .lha 3#5 4#5 0xFFFC#16),
      (0x7C642AAE, .lhax 3#5 4#5 5#5),
      (0xAC64FFFC, .lhau 3#5 4#5 0xFFFC#16),
      (0x7C642AEE, .lhaux 3#5 4#5 5#5),
      (0x8064FFFC, .lwz 3#5 4#5 0xFFFC#16),
      (0x7C64282E, .lwzx 3#5 4#5 5#5),
      (0x8464FFFC, .lwzu 3#5 4#5 0xFFFC#16),
      (0x7C64286E, .lwzux 3#5 4#5 5#5),
      (0x7C642E2C, .lhbrx 3#5 4#5 5#5),
      (0x7C642C2C, .lwbrx 3#5 4#5 5#5),
      (0xBBC10008, .lmw 30#5 1#5 0x8#16),
      (0x7CA634AA, .lswi 5#5 6#5 6),
      (0x7CA43C2A, .lswx 5#5 4#5 7#5)] : List (Nat × Instr)).all
      (fun p => decodeTableWord 32 p.1 == some p.2) = true := by decide +kernel

/-- The words of the examples of spec/48_store.md, each with the instruction its text names. -/
theorem test_decode_store :
    ([(0x9864FFF0, .stb 3#5 4#5 0xFFF0#16),
      (0x7C6429AE, .stbx 3#5 4#5 5#5),
      (0x9C64FFF0, .stbu 3#5 4#5 0xFFF0#16),
      (0x7C6429EE, .stbux 3#5 4#5 5#5),
      (0xB064FFF0, .sth 3#5 4#5 0xFFF0#16),
      (0x7C642B2E, .sthx 3#5 4#5 5#5),
      (0xB464FFF0, .sthu 3#5 4#5 0xFFF0#16),
      (0x7C642B6E, .sthux 3#5 4#5 5#5),
      (0x9064FFF0, .stw 3#5 4#5 0xFFF0#16),
      (0x7C64292E, .stwx 3#5 4#5 5#5),
      (0x9464FFF0, .stwu 3#5 4#5 0xFFF0#16),
      (0x7C64296E, .stwux 3#5 4#5 5#5),
      (0x7C642F2C, .sthbrx 3#5 4#5 5#5),
      (0x7C642D2C, .stwbrx 3#5 4#5 5#5),
      (0xBFC1FFF8, .stmw 30#5 1#5 0xFFF8#16),
      (0x7CA435AA, .stswi 5#5 4#5 6),
      (0x7CA43D2A, .stswx 5#5 4#5 7#5)] : List (Nat × Instr)).all
      (fun p => decodeTableWord 32 p.1 == some p.2) = true := by decide +kernel

/-- The words of the examples of spec/49_move_system.md, each with the instruction its text names. -/
theorem test_decode_move_system :
    ([(0x7C6802A6, .mfspr 3#5 8),
      (0x7C6903A6, .mtspr 9 3#5),
      (0x7C600026, .mfcr 3#5),
      (0x7C681120, .mtcrf 0x81#8 3#5),
      (0x7C800400, .mcrxr 1#3),
      (0x44000002, .sc)] : List (Nat × Instr)).all
      (fun p => decodeTableWord 32 p.1 == some p.2) = true := by decide +kernel

/-- The words of spec/95_test_vectors.md V330 to V334 and V338 match no instruction. -/
theorem test_decode_rejects :
    ([0x00000000, 0x7C0004AC, 0x7C6000A6, 0xC8230000, 0x4C000064, 0x44000000] : List Nat).all
      (fun w => (decodeTableWord 32 w).isNone) = true := by decide +kernel

/-- The words of spec/95_test_vectors.md V335 to V337 and V339: reserved bits are ignored. -/
theorem test_decode_ignores_reserved_bits :
    ([(0x7C64282F, .lwzx 3#5 4#5 5#5), (0x7C432800, .cmp 0#3 0#1 3#5 5#5), (0x47FFFFFF, .sc),
      (0x7C6802A7, .mfspr 3#5 8)] : List (Nat × Instr)).all
      (fun p => decodeTableWord 32 p.1 == some p.2) = true := by decide +kernel

/-- The byte-count field 0 means 32 (spec/30_encoding.md R115), the SPR field holds its halves swapped (R113). -/
theorem test_decode_counts_and_spr :
    decodeTableWord 32 0x7FE404AA = some (.lswi 31#5 4#5 32) ∧
      decodeTableWord 32 0x7C70FAA6 = some (.mfspr 3#5 1008) := by decide +kernel

/-- The encoder writes the words of the spec's examples. -/
theorem test_encode_words :
    encode (.bc 12#5 2#5 8#14) = 0x41820020#32 ∧ encode (.addoRc 3#5 4#5 5#5) = 0x7C642E15#32 ∧
      encode (.mtspr 260 3#5) = 0x7C6443A6#32 ∧ encode (.sc) = 0x44000002#32 := by decide

/-! ## One step -/

/-- The example of spec/41_branch.md R156. -/
theorem test_b :
    after (start [] [] 0x4BFFFFF8) [96, 98, 101] [] =
      some ([0x00000FF8#32, 0x00000000#32, 0x00000000#32], []) := by
  decide +kernel

/-- The example of spec/41_branch.md R158. -/
theorem test_bl :
    after (start [(99, 0xAAAAAAAA#32)] [] 0x48000011) [96, 98, 99, 101] [] =
      some ([0x00001010#32, 0x00000000#32, 0x00001004#32, 0x00000000#32], []) := by
  decide +kernel

/-- The example of spec/41_branch.md R159. -/
theorem test_bla :
    after (start [(99, 0x00000000#32)] [] 0x4BFFFFFF) [96, 98, 99, 101] [] =
      some ([0xFFFFFFFC#32, 0x00000000#32, 0x00001004#32, 0x00000000#32], []) := by
  decide +kernel

/-- The example of spec/41_branch.md R160. -/
theorem test_bc :
    after (start [(98, 0x20000000#32)] [] 0x41820020) [96, 98, 101] [] =
      some ([0x00001020#32, 0x20000000#32, 0x00000000#32], []) := by
  decide +kernel

/-- The example of spec/41_branch.md R163. -/
theorem test_bcla :
    after (start [(98, 0x80000000#32), (99, 0x00000000#32)] [] 0x40800103) [96, 98, 99, 101] [] =
      some ([0x00001004#32, 0x80000000#32, 0x00001004#32, 0x00000000#32], []) := by
  decide +kernel

/-- The example of spec/41_branch.md R164. -/
theorem test_bclr :
    after (start [(99, 0x00002003#32)] [] 0x4E800020) [96, 98, 99, 101] [] =
      some ([0x00002000#32, 0x00000000#32, 0x00002003#32, 0x00000000#32], []) := by
  decide +kernel

/-- The example of spec/41_branch.md R165. -/
theorem test_bclrl :
    after (start [(99, 0x00002000#32)] [] 0x4E800021) [96, 98, 99, 101] [] =
      some ([0x00002000#32, 0x00000000#32, 0x00001004#32, 0x00000000#32], []) := by
  decide +kernel

/-- The example of spec/41_branch.md R167. -/
theorem test_bcctrl :
    after (start [(98, 0x40000000#32), (99, 0x00000000#32), (100, 0x00003000#32)] [] 0x4D810421) [96, 98, 99, 100, 101] [] =
      some ([0x00003000#32, 0x40000000#32, 0x00001004#32, 0x00003000#32, 0x00000000#32], []) := by
  decide +kernel

/-- The example of spec/42_add_sub.md R175. -/
theorem test_addo_rc :
    after (start [(4, 0x7FFFFFFF#32), (5, 0x00000001#32)] [] 0x7C642E15) [3, 4, 5, 96, 98, 101] [] =
      some ([0x80000000#32, 0x7FFFFFFF#32, 0x00000001#32, 0x00001004#32, 0x90000000#32, 0xC0000000#32], []) := by
  decide +kernel

/-- The example of spec/42_add_sub.md R179. -/
theorem test_addco_rc :
    after (start [(4, 0x80000000#32), (5, 0x80000000#32)] [] 0x7C642C15) [3, 4, 5, 96, 98, 101] [] =
      some ([0x00000000#32, 0x80000000#32, 0x80000000#32, 0x00001004#32, 0x30000000#32, 0xE0000000#32], []) := by
  decide +kernel

/-- The example of spec/42_add_sub.md R183. -/
theorem test_addeo_rc :
    after (start [(4, 0x7FFFFFFF#32), (5, 0x00000000#32), (101, 0x20000000#32)] [] 0x7C642D15) [3, 4, 5, 96, 98, 101] [] =
      some ([0x80000000#32, 0x7FFFFFFF#32, 0x00000000#32, 0x00001004#32, 0x90000000#32, 0xC0000000#32], []) := by
  decide +kernel

/-- The example of spec/42_add_sub.md R187. -/
theorem test_addmeo_rc :
    after (start [(4, 0x80000000#32), (101, 0x00000000#32)] [] 0x7C6405D5) [3, 4, 96, 98, 101] [] =
      some ([0x7FFFFFFF#32, 0x80000000#32, 0x00001004#32, 0x50000000#32, 0xE0000000#32], []) := by
  decide +kernel

/-- The example of spec/42_add_sub.md R191. -/
theorem test_addzeo_rc :
    after (start [(4, 0x7FFFFFFF#32), (101, 0x20000000#32)] [] 0x7C640595) [3, 4, 96, 98, 101] [] =
      some ([0x80000000#32, 0x7FFFFFFF#32, 0x00001004#32, 0x90000000#32, 0xC0000000#32], []) := by
  decide +kernel

/-- The example of spec/42_add_sub.md R195. -/
theorem test_subfo_rc :
    after (start [(4, 0x00000001#32), (5, 0x80000000#32)] [] 0x7C642C51) [3, 4, 5, 96, 98, 101] [] =
      some ([0x7FFFFFFF#32, 0x00000001#32, 0x80000000#32, 0x00001004#32, 0x50000000#32, 0xC0000000#32], []) := by
  decide +kernel

/-- The example of spec/42_add_sub.md R199. -/
theorem test_subfco_rc :
    after (start [(4, 0x80000000#32), (5, 0x7FFFFFFF#32)] [] 0x7C642C11) [3, 4, 5, 96, 98, 101] [] =
      some ([0xFFFFFFFF#32, 0x80000000#32, 0x7FFFFFFF#32, 0x00001004#32, 0x90000000#32, 0xC0000000#32], []) := by
  decide +kernel

/-- The example of spec/42_add_sub.md R203. -/
theorem test_subfeo_rc :
    after (start [(4, 0x80000000#32), (5, 0x00000000#32), (101, 0x20000000#32)] [] 0x7C642D11) [3, 4, 5, 96, 98, 101] [] =
      some ([0x80000000#32, 0x80000000#32, 0x00000000#32, 0x00001004#32, 0x90000000#32, 0xC0000000#32], []) := by
  decide +kernel

/-- The example of spec/42_add_sub.md R207. -/
theorem test_subfmeo_rc :
    after (start [(4, 0x7FFFFFFF#32), (101, 0x00000000#32)] [] 0x7C6405D1) [3, 4, 96, 98, 101] [] =
      some ([0x7FFFFFFF#32, 0x7FFFFFFF#32, 0x00001004#32, 0x50000000#32, 0xE0000000#32], []) := by
  decide +kernel

/-- The example of spec/42_add_sub.md R211. -/
theorem test_subfzeo_rc :
    after (start [(4, 0x80000000#32), (101, 0x20000000#32)] [] 0x7C640591) [3, 4, 96, 98, 101] [] =
      some ([0x80000000#32, 0x80000000#32, 0x00001004#32, 0x90000000#32, 0xC0000000#32], []) := by
  decide +kernel

/-- The example of spec/42_add_sub.md R215. -/
theorem test_nego_rc :
    after (start [(4, 0x80000000#32)] [] 0x7C6404D1) [3, 4, 96, 98, 101] [] =
      some ([0x80000000#32, 0x80000000#32, 0x00001004#32, 0x90000000#32, 0xC0000000#32], []) := by
  decide +kernel

/-- The example of spec/42_add_sub.md R216. -/
theorem test_addi :
    after (start [(4, 0x00000000#32)] [] 0x3864FFFF) [3, 4, 96, 98, 101] [] =
      some ([0xFFFFFFFF#32, 0x00000000#32, 0x00001004#32, 0x00000000#32, 0x00000000#32], []) := by
  decide +kernel

/-- The example of spec/42_add_sub.md R217. -/
theorem test_addis :
    after (start [] [] 0x3C601234) [0, 3, 96, 98, 101] [] =
      some ([0x00000000#32, 0x12340000#32, 0x00001004#32, 0x00000000#32, 0x00000000#32], []) := by
  decide +kernel

/-- The example of spec/42_add_sub.md R219. -/
theorem test_addic_rc :
    after (start [(4, 0x00000000#32), (101, 0xA0000000#32)] [] 0x3464FFFF) [3, 4, 96, 98, 101] [] =
      some ([0xFFFFFFFF#32, 0x00000000#32, 0x00001004#32, 0x90000000#32, 0x80000000#32], []) := by
  decide +kernel

/-- The example of spec/42_add_sub.md R220. -/
theorem test_subfic :
    after (start [(4, 0x00000003#32)] [] 0x2064000A) [3, 4, 96, 98, 101] [] =
      some ([0x00000007#32, 0x00000003#32, 0x00001004#32, 0x00000000#32, 0x20000000#32], []) := by
  decide +kernel

/-- The example of spec/43_mul_div_cmp.md R236. -/
theorem test_mullwo_rc :
    after (start [(4, 0x00010000#32), (5, 0x00010000#32)] [] 0x7C642DD7) [3, 4, 5, 96, 98, 101] [] =
      some ([0x00000000#32, 0x00010000#32, 0x00010000#32, 0x00001004#32, 0x30000000#32, 0xC0000000#32], []) := by
  decide +kernel

/-- The example of spec/43_mul_div_cmp.md R238. -/
theorem test_mulhw_rc :
    after (start [(4, 0x80000000#32), (5, 0x00000002#32)] [] 0x7C642897) [3, 4, 5, 96, 98, 101] [] =
      some ([0xFFFFFFFF#32, 0x80000000#32, 0x00000002#32, 0x00001004#32, 0x80000000#32, 0x00000000#32], []) := by
  decide +kernel

/-- The example of spec/43_mul_div_cmp.md R240. -/
theorem test_mulhwu_rc :
    after (start [(4, 0x80000000#32), (5, 0x00000002#32)] [] 0x7C642817) [3, 4, 5, 96, 98, 101] [] =
      some ([0x00000001#32, 0x80000000#32, 0x00000002#32, 0x00001004#32, 0x40000000#32, 0x00000000#32], []) := by
  decide +kernel

/-- The example of spec/43_mul_div_cmp.md R241. -/
theorem test_mulli :
    after (start [(4, 0x40000001#32)] [] 0x1C64FFFE) [3, 4, 96, 98, 101] [] =
      some ([0x7FFFFFFE#32, 0x40000001#32, 0x00001004#32, 0x00000000#32, 0x00000000#32], []) := by
  decide +kernel

/-- The example of spec/43_mul_div_cmp.md R245. -/
theorem test_divwo_rc :
    after (start [(4, 0xFFFFFFF9#32), (5, 0x00000002#32), (101, 0xC0000000#32)] [] 0x7C642FD7) [3, 4, 5, 96, 98, 101] [] =
      some ([0xFFFFFFFD#32, 0xFFFFFFF9#32, 0x00000002#32, 0x00001004#32, 0x90000000#32, 0x80000000#32], []) := by
  decide +kernel

/-- The example of spec/43_mul_div_cmp.md R249. -/
theorem test_divwuo_rc :
    after (start [(4, 0xFFFFFFF9#32), (5, 0x00000002#32), (101, 0xC0000000#32)] [] 0x7C642F97) [3, 4, 5, 96, 98, 101] [] =
      some ([0x7FFFFFFC#32, 0xFFFFFFF9#32, 0x00000002#32, 0x00001004#32, 0x50000000#32, 0x80000000#32], []) := by
  decide +kernel

/-- The example of spec/43_mul_div_cmp.md R250. -/
theorem test_cmp :
    after (start [(4, 0xFFFFFFFF#32), (5, 0x00000001#32), (98, 0xFFFFFFFF#32), (101, 0x80000000#32)] [] 0x7D042800) [4, 5, 96, 98, 101] [] =
      some ([0xFFFFFFFF#32, 0x00000001#32, 0x00001004#32, 0xFF9FFFFF#32, 0x80000000#32], []) := by
  decide +kernel

/-- The example of spec/43_mul_div_cmp.md R251. -/
theorem test_cmpi :
    after (start [(4, 0xFFFFFFFF#32), (98, 0xFFFFFFFF#32), (101, 0x80000000#32)] [] 0x2D040001) [4, 96, 98, 101] [] =
      some ([0xFFFFFFFF#32, 0x00001004#32, 0xFF9FFFFF#32, 0x80000000#32], []) := by
  decide +kernel

/-- The example of spec/43_mul_div_cmp.md R252. -/
theorem test_cmpl :
    after (start [(4, 0xFFFFFFFF#32), (5, 0x00000001#32), (98, 0xFFFFFFFF#32), (101, 0x80000000#32)] [] 0x7D042840) [4, 5, 96, 98, 101] [] =
      some ([0xFFFFFFFF#32, 0x00000001#32, 0x00001004#32, 0xFF5FFFFF#32, 0x80000000#32], []) := by
  decide +kernel

/-- The example of spec/43_mul_div_cmp.md R253. -/
theorem test_cmpli :
    after (start [(4, 0xFFFFFFFF#32), (98, 0xFFFFFFFF#32), (101, 0x80000000#32)] [] 0x2904FFFF) [4, 96, 98, 101] [] =
      some ([0xFFFFFFFF#32, 0x00001004#32, 0xFF5FFFFF#32, 0x80000000#32], []) := by
  decide +kernel

/-- The example of spec/44_logical.md R262. -/
theorem test_and_rc :
    after (start [(3, 0xF0F0F0F0#32), (4, 0x11111111#32), (5, 0xFF00FF00#32)] [] 0x7C642839) [3, 4, 5, 96, 98, 101] [] =
      some ([0xF0F0F0F0#32, 0xF000F000#32, 0xFF00FF00#32, 0x00001004#32, 0x80000000#32, 0x00000000#32], []) := by
  decide +kernel

/-- The example of spec/44_logical.md R264. -/
theorem test_andc_rc :
    after (start [(3, 0xF0F0F0F0#32), (4, 0x11111111#32), (5, 0xFF00FF00#32)] [] 0x7C642879) [3, 4, 5, 96, 98, 101] [] =
      some ([0xF0F0F0F0#32, 0x00F000F0#32, 0xFF00FF00#32, 0x00001004#32, 0x40000000#32, 0x00000000#32], []) := by
  decide +kernel

/-- The example of spec/44_logical.md R266. -/
theorem test_eqv_rc :
    after (start [(3, 0xF0F0F0F0#32), (4, 0x11111111#32), (5, 0xFF00FF00#32)] [] 0x7C642A39) [3, 4, 5, 96, 98, 101] [] =
      some ([0xF0F0F0F0#32, 0xF00FF00F#32, 0xFF00FF00#32, 0x00001004#32, 0x80000000#32, 0x00000000#32], []) := by
  decide +kernel

/-- The example of spec/44_logical.md R268. -/
theorem test_nand_rc :
    after (start [(3, 0xF0F0F0F0#32), (4, 0x11111111#32), (5, 0xFF00FF00#32)] [] 0x7C642BB9) [3, 4, 5, 96, 98, 101] [] =
      some ([0xF0F0F0F0#32, 0x0FFF0FFF#32, 0xFF00FF00#32, 0x00001004#32, 0x40000000#32, 0x00000000#32], []) := by
  decide +kernel

/-- The example of spec/44_logical.md R270. -/
theorem test_nor_rc :
    after (start [(3, 0xF0F0F0F0#32), (4, 0x11111111#32), (5, 0xFF00FF00#32)] [] 0x7C6428F9) [3, 4, 5, 96, 98, 101] [] =
      some ([0xF0F0F0F0#32, 0x000F000F#32, 0xFF00FF00#32, 0x00001004#32, 0x40000000#32, 0x00000000#32], []) := by
  decide +kernel

/-- The example of spec/44_logical.md R272. -/
theorem test_or_rc :
    after (start [(3, 0xF0F0F0F0#32), (4, 0x11111111#32), (5, 0xFF00FF00#32)] [] 0x7C642B79) [3, 4, 5, 96, 98, 101] [] =
      some ([0xF0F0F0F0#32, 0xFFF0FFF0#32, 0xFF00FF00#32, 0x00001004#32, 0x80000000#32, 0x00000000#32], []) := by
  decide +kernel

/-- The example of spec/44_logical.md R274. -/
theorem test_orc_rc :
    after (start [(3, 0xF0F0F0F0#32), (4, 0x11111111#32), (5, 0xFF00FF00#32)] [] 0x7C642B39) [3, 4, 5, 96, 98, 101] [] =
      some ([0xF0F0F0F0#32, 0xF0FFF0FF#32, 0xFF00FF00#32, 0x00001004#32, 0x80000000#32, 0x00000000#32], []) := by
  decide +kernel

/-- The example of spec/44_logical.md R276. -/
theorem test_xor_rc :
    after (start [(3, 0xF0F0F0F0#32), (4, 0x11111111#32), (5, 0xFF00FF00#32)] [] 0x7C642A79) [3, 4, 5, 96, 98, 101] [] =
      some ([0xF0F0F0F0#32, 0x0FF00FF0#32, 0xFF00FF00#32, 0x00001004#32, 0x40000000#32, 0x00000000#32], []) := by
  decide +kernel

/-- The example of spec/44_logical.md R277. -/
theorem test_andi_rc :
    after (start [(3, 0xFFFF0FF1#32)] [] 0x70648001) [3, 4, 96, 98, 101] [] =
      some ([0xFFFF0FF1#32, 0x00000001#32, 0x00001004#32, 0x40000000#32, 0x00000000#32], []) := by
  decide +kernel

/-- The example of spec/44_logical.md R278. -/
theorem test_andis_rc :
    after (start [(3, 0xFFFF0FF1#32)] [] 0x74648001) [3, 4, 96, 98, 101] [] =
      some ([0xFFFF0FF1#32, 0x80010000#32, 0x00001004#32, 0x80000000#32, 0x00000000#32], []) := by
  decide +kernel

/-- The example of spec/44_logical.md R279. -/
theorem test_ori :
    after (start [(3, 0xFFFF0FF1#32)] [] 0x60648001) [3, 4, 96, 98, 101] [] =
      some ([0xFFFF0FF1#32, 0xFFFF8FF1#32, 0x00001004#32, 0x00000000#32, 0x00000000#32], []) := by
  decide +kernel

/-- The example of spec/44_logical.md R280. -/
theorem test_oris :
    after (start [(3, 0xFFFF0FF1#32)] [] 0x64648001) [3, 4, 96, 98, 101] [] =
      some ([0xFFFF0FF1#32, 0xFFFF0FF1#32, 0x00001004#32, 0x00000000#32, 0x00000000#32], []) := by
  decide +kernel

/-- The example of spec/44_logical.md R281. -/
theorem test_xori :
    after (start [(3, 0xFFFF0FF1#32)] [] 0x68648001) [3, 4, 96, 98, 101] [] =
      some ([0xFFFF0FF1#32, 0xFFFF8FF0#32, 0x00001004#32, 0x00000000#32, 0x00000000#32], []) := by
  decide +kernel

/-- The example of spec/44_logical.md R282. -/
theorem test_xoris :
    after (start [(3, 0xFFFF0FF1#32)] [] 0x6C648001) [3, 4, 96, 98, 101] [] =
      some ([0xFFFF0FF1#32, 0x7FFE0FF1#32, 0x00001004#32, 0x00000000#32, 0x00000000#32], []) := by
  decide +kernel

/-- The example of spec/44_logical.md R284. -/
theorem test_extsb_rc :
    after (start [(3, 0x00000180#32)] [] 0x7C640775) [3, 4, 96, 98, 101] [] =
      some ([0x00000180#32, 0xFFFFFF80#32, 0x00001004#32, 0x80000000#32, 0x00000000#32], []) := by
  decide +kernel

/-- The example of spec/44_logical.md R286. -/
theorem test_extsh_rc :
    after (start [(3, 0x00018000#32)] [] 0x7C640735) [3, 4, 96, 98, 101] [] =
      some ([0x00018000#32, 0xFFFF8000#32, 0x00001004#32, 0x80000000#32, 0x00000000#32], []) := by
  decide +kernel

/-- The example of spec/44_logical.md R288. -/
theorem test_cntlzw_rc :
    after (start [(3, 0x00010000#32)] [] 0x7C640035) [3, 4, 96, 98, 101] [] =
      some ([0x00010000#32, 0x0000000F#32, 0x00001004#32, 0x40000000#32, 0x00000000#32], []) := by
  decide +kernel

/-- The example of spec/45_shift_rotate.md R297. -/
theorem test_slw_rc :
    after (start [(3, 0x80000001#32), (5, 0x00000001#32)] [] 0x7C642831) [3, 4, 5, 96, 98, 101] [] =
      some ([0x80000001#32, 0x00000002#32, 0x00000001#32, 0x00001004#32, 0x40000000#32, 0x00000000#32], []) := by
  decide +kernel

/-- The example of spec/45_shift_rotate.md R299. -/
theorem test_srw_rc :
    after (start [(3, 0x80000001#32), (5, 0x00000001#32)] [] 0x7C642C31) [3, 4, 5, 96, 98, 101] [] =
      some ([0x80000001#32, 0x40000000#32, 0x00000001#32, 0x00001004#32, 0x40000000#32, 0x00000000#32], []) := by
  decide +kernel

/-- The example of spec/45_shift_rotate.md R301. -/
theorem test_sraw_rc :
    after (start [(3, 0x80000001#32), (5, 0x00000001#32)] [] 0x7C642E31) [3, 4, 5, 96, 98, 101] [] =
      some ([0x80000001#32, 0xC0000000#32, 0x00000001#32, 0x00001004#32, 0x80000000#32, 0x20000000#32], []) := by
  decide +kernel

/-- The example of spec/45_shift_rotate.md R303. -/
theorem test_srawi_rc :
    after (start [(3, 0xFFFFFFF0#32), (101, 0x20000000#32)] [] 0x7C642671) [3, 4, 96, 98, 101] [] =
      some ([0xFFFFFFF0#32, 0xFFFFFFFF#32, 0x00001004#32, 0x80000000#32, 0x00000000#32], []) := by
  decide +kernel

/-- The example of spec/45_shift_rotate.md R305. -/
theorem test_rlwimi_rc :
    after (start [(3, 0x12345678#32), (4, 0xFFFFFFFF#32)] [] 0x5064442F) [3, 4, 96, 98, 101] [] =
      some ([0x12345678#32, 0xFFFF78FF#32, 0x00001004#32, 0x80000000#32, 0x00000000#32], []) := by
  decide +kernel

/-- The example of spec/45_shift_rotate.md R307. -/
theorem test_rlwinm_rc :
    after (start [(3, 0x12345678#32)] [] 0x5464463F) [3, 4, 96, 98, 101] [] =
      some ([0x12345678#32, 0x00000012#32, 0x00001004#32, 0x40000000#32, 0x00000000#32], []) := by
  decide +kernel

/-- The example of spec/45_shift_rotate.md R309. -/
theorem test_rlwnm_rc :
    after (start [(3, 0x12345678#32), (5, 0x00000024#32)] [] 0x5C642F07) [3, 4, 5, 96, 98, 101] [] =
      some ([0x12345678#32, 0x20000001#32, 0x00000024#32, 0x00001004#32, 0x40000000#32, 0x00000000#32], []) := by
  decide +kernel

/-- The example of spec/46_cr_logical.md R316. -/
theorem test_crand :
    after (start [(98, 0x42000000#32)] [] 0x4CC11202) [96, 98, 101] [] =
      some ([0x00001004#32, 0x40000000#32, 0x00000000#32], []) := by
  decide +kernel

/-- The example of spec/46_cr_logical.md R317. -/
theorem test_crandc :
    after (start [(98, 0x42000000#32)] [] 0x4CC11102) [96, 98, 101] [] =
      some ([0x00001004#32, 0x42000000#32, 0x00000000#32], []) := by
  decide +kernel

/-- The example of spec/46_cr_logical.md R318. -/
theorem test_creqv :
    after (start [(98, 0x42000000#32)] [] 0x4CC11242) [96, 98, 101] [] =
      some ([0x00001004#32, 0x40000000#32, 0x00000000#32], []) := by
  decide +kernel

/-- The example of spec/46_cr_logical.md R319. -/
theorem test_crnand :
    after (start [(98, 0x42000000#32)] [] 0x4CC111C2) [96, 98, 101] [] =
      some ([0x00001004#32, 0x42000000#32, 0x00000000#32], []) := by
  decide +kernel

/-- The example of spec/46_cr_logical.md R320. -/
theorem test_crnor :
    after (start [(98, 0x42000000#32)] [] 0x4CC11042) [96, 98, 101] [] =
      some ([0x00001004#32, 0x40000000#32, 0x00000000#32], []) := by
  decide +kernel

/-- The example of spec/46_cr_logical.md R321. -/
theorem test_cror :
    after (start [(98, 0x42000000#32)] [] 0x4CC11382) [96, 98, 101] [] =
      some ([0x00001004#32, 0x42000000#32, 0x00000000#32], []) := by
  decide +kernel

/-- The example of spec/46_cr_logical.md R322. -/
theorem test_crorc :
    after (start [(98, 0x42000000#32)] [] 0x4CC11342) [96, 98, 101] [] =
      some ([0x00001004#32, 0x42000000#32, 0x00000000#32], []) := by
  decide +kernel

/-- The example of spec/46_cr_logical.md R323. -/
theorem test_crxor :
    after (start [(98, 0x42000000#32)] [] 0x4CC11182) [96, 98, 101] [] =
      some ([0x00001004#32, 0x42000000#32, 0x00000000#32], []) := by
  decide +kernel

/-- The example of spec/46_cr_logical.md R324. -/
theorem test_mcrf :
    after (start [(98, 0x1234567A#32)] [] 0x4C1C0000) [96, 98, 101] [] =
      some ([0x00001004#32, 0xA234567A#32, 0x00000000#32], []) := by
  decide +kernel

/-- The example of spec/47_load.md R333. -/
theorem test_lbz :
    after (start [(4, 0x00002014#32)] [(0x00002010#32, 0x80#8), (0x00002011#32, 0xA1#8), (0x00002012#32, 0xB2#8), (0x00002013#32, 0xC3#8)] 0x8864FFFC) [3, 4, 96, 98, 101] [] =
      some ([0x00000080#32, 0x00002014#32, 0x00001004#32, 0x00000000#32, 0x00000000#32], []) := by
  decide +kernel

/-- The example of spec/47_load.md R336. -/
theorem test_lbzux :
    after (start [(4, 0x00002000#32), (5, 0x00000010#32)] [(0x00002010#32, 0x80#8), (0x00002011#32, 0xA1#8), (0x00002012#32, 0xB2#8), (0x00002013#32, 0xC3#8)] 0x7C6428EE) [3, 4, 5, 96, 98, 101] [] =
      some ([0x00000080#32, 0x00002010#32, 0x00000010#32, 0x00001004#32, 0x00000000#32, 0x00000000#32], []) := by
  decide +kernel

/-- The example of spec/47_load.md R340. -/
theorem test_lhzux :
    after (start [(4, 0x00002000#32), (5, 0x00000010#32)] [(0x00002010#32, 0x80#8), (0x00002011#32, 0xA1#8), (0x00002012#32, 0xB2#8), (0x00002013#32, 0xC3#8)] 0x7C642A6E) [3, 4, 5, 96, 98, 101] [] =
      some ([0x000080A1#32, 0x00002010#32, 0x00000010#32, 0x00001004#32, 0x00000000#32, 0x00000000#32], []) := by
  decide +kernel

/-- The example of spec/47_load.md R343. -/
theorem test_lhau :
    after (start [(4, 0x00002014#32)] [(0x00002010#32, 0x80#8), (0x00002011#32, 0xA1#8), (0x00002012#32, 0xB2#8), (0x00002013#32, 0xC3#8)] 0xAC64FFFC) [3, 4, 96, 98, 101] [] =
      some ([0xFFFF80A1#32, 0x00002010#32, 0x00001004#32, 0x00000000#32, 0x00000000#32], []) := by
  decide +kernel

/-- The example of spec/47_load.md R347. -/
theorem test_lwzu :
    after (start [(4, 0x00002014#32)] [(0x00002010#32, 0x80#8), (0x00002011#32, 0xA1#8), (0x00002012#32, 0xB2#8), (0x00002013#32, 0xC3#8)] 0x8464FFFC) [3, 4, 96, 98, 101] [] =
      some ([0x80A1B2C3#32, 0x00002010#32, 0x00001004#32, 0x00000000#32, 0x00000000#32], []) := by
  decide +kernel

/-- The example of spec/47_load.md R349. -/
theorem test_lhbrx :
    after (start [(4, 0x00002000#32), (5, 0x00000010#32)] [(0x00002010#32, 0x80#8), (0x00002011#32, 0xA1#8), (0x00002012#32, 0xB2#8), (0x00002013#32, 0xC3#8)] 0x7C642E2C) [3, 4, 5, 96, 98, 101] [] =
      some ([0x0000A180#32, 0x00002000#32, 0x00000010#32, 0x00001004#32, 0x00000000#32, 0x00000000#32], []) := by
  decide +kernel

/-- The example of spec/47_load.md R350. -/
theorem test_lwbrx :
    after (start [(4, 0x00002000#32), (5, 0x00000010#32)] [(0x00002010#32, 0x80#8), (0x00002011#32, 0xA1#8), (0x00002012#32, 0xB2#8), (0x00002013#32, 0xC3#8)] 0x7C642C2C) [3, 4, 5, 96, 98, 101] [] =
      some ([0xC3B2A180#32, 0x00002000#32, 0x00000010#32, 0x00001004#32, 0x00000000#32, 0x00000000#32], []) := by
  decide +kernel

/-- The example of spec/47_load.md R351. -/
theorem test_lmw :
    after (start [(1, 0x00003000#32)] [(0x00003008#32, 0x11#8), (0x00003009#32, 0x11#8), (0x0000300A#32, 0x11#8), (0x0000300B#32, 0x11#8), (0x0000300C#32, 0x22#8), (0x0000300D#32, 0x22#8), (0x0000300E#32, 0x22#8), (0x0000300F#32, 0x22#8)] 0xBBC10008) [1, 30, 31, 96, 98, 101] [] =
      some ([0x00003000#32, 0x11111111#32, 0x22222222#32, 0x00001004#32, 0x00000000#32, 0x00000000#32], []) := by
  decide +kernel

/-- The example of spec/47_load.md R352. -/
theorem test_lswi :
    after (start [(5, 0xFFFFFFFF#32), (6, 0x00002000#32)] [(0x00002000#32, 0x01#8), (0x00002001#32, 0x02#8), (0x00002002#32, 0x03#8), (0x00002003#32, 0x04#8), (0x00002004#32, 0x05#8), (0x00002005#32, 0x06#8), (0x00002006#32, 0x07#8), (0x00002007#32, 0x08#8)] 0x7CA634AA) [5, 6, 96, 98, 101] [] =
      some ([0x01020304#32, 0x05060000#32, 0x00001004#32, 0x00000000#32, 0x00000000#32], []) := by
  decide +kernel

/-- The example of spec/47_load.md R353. -/
theorem test_lswx :
    after (start [(4, 0x00002000#32), (5, 0xFFFFFFFF#32), (6, 0xFFFFFFFF#32), (7, 0x00000000#32), (101, 0x00000005#32)] [(0x00002000#32, 0x01#8), (0x00002001#32, 0x02#8), (0x00002002#32, 0x03#8), (0x00002003#32, 0x04#8), (0x00002004#32, 0x05#8), (0x00002005#32, 0x06#8), (0x00002006#32, 0x07#8), (0x00002007#32, 0x08#8)] 0x7CA43C2A) [4, 5, 6, 7, 96, 98, 101] [] =
      some ([0x00002000#32, 0x01020304#32, 0x05000000#32, 0x00000000#32, 0x00001004#32, 0x00000000#32, 0x00000005#32], []) := by
  decide +kernel

/-- The example of spec/48_store.md R363. -/
theorem test_stbu :
    after (start [(3, 0x80A1B2C3#32), (4, 0x00002020#32)] [] 0x9C64FFF0) [3, 4, 96, 98, 101] [0x0000200F#32, 0x00002010#32, 0x00002011#32] =
      some ([0x80A1B2C3#32, 0x00002010#32, 0x00001004#32, 0x00000000#32, 0x00000000#32], [0x00#8, 0xC3#8, 0x00#8]) := by
  decide +kernel

/-- The example of spec/48_store.md R368. -/
theorem test_sthux :
    after (start [(3, 0x80A1B2C3#32), (4, 0x00002000#32), (5, 0x00000010#32)] [] 0x7C642B6E) [3, 4, 5, 96, 98, 101] [0x0000200F#32, 0x00002010#32, 0x00002011#32, 0x00002012#32] =
      some ([0x80A1B2C3#32, 0x00002010#32, 0x00000010#32, 0x00001004#32, 0x00000000#32, 0x00000000#32], [0x00#8, 0xB2#8, 0xC3#8, 0x00#8]) := by
  decide +kernel

/-- The example of spec/48_store.md R371. -/
theorem test_stwu :
    after (start [(3, 0x80A1B2C3#32), (4, 0x00002020#32)] [] 0x9464FFF0) [3, 4, 96, 98, 101] [0x0000200F#32, 0x00002010#32, 0x00002011#32, 0x00002012#32, 0x00002013#32, 0x00002014#32] =
      some ([0x80A1B2C3#32, 0x00002010#32, 0x00001004#32, 0x00000000#32, 0x00000000#32], [0x00#8, 0x80#8, 0xA1#8, 0xB2#8, 0xC3#8, 0x00#8]) := by
  decide +kernel

/-- The example of spec/48_store.md R373. -/
theorem test_sthbrx :
    after (start [(3, 0x000000AB#32), (4, 0x00002000#32), (5, 0x00000010#32)] [(0x00002010#32, 0xEE#8), (0x00002011#32, 0xEE#8), (0x00002012#32, 0xEE#8), (0x00002013#32, 0xEE#8)] 0x7C642F2C) [3, 4, 5, 96, 98, 101] [0x0000200F#32, 0x00002010#32, 0x00002011#32, 0x00002012#32] =
      some ([0x000000AB#32, 0x00002000#32, 0x00000010#32, 0x00001004#32, 0x00000000#32, 0x00000000#32], [0x00#8, 0xAB#8, 0x00#8, 0xEE#8]) := by
  decide +kernel

/-- The example of spec/48_store.md R374. -/
theorem test_stwbrx :
    after (start [(3, 0x80A1B2C3#32), (4, 0x00002000#32), (5, 0x00000010#32)] [(0x00002010#32, 0xEE#8), (0x00002011#32, 0xEE#8), (0x00002012#32, 0xEE#8), (0x00002013#32, 0xEE#8)] 0x7C642D2C) [3, 4, 5, 96, 98, 101] [0x0000200F#32, 0x00002010#32, 0x00002011#32, 0x00002012#32, 0x00002013#32, 0x00002014#32] =
      some ([0x80A1B2C3#32, 0x00002000#32, 0x00000010#32, 0x00001004#32, 0x00000000#32, 0x00000000#32], [0x00#8, 0xC3#8, 0xB2#8, 0xA1#8, 0x80#8, 0x00#8]) := by
  decide +kernel

/-- The example of spec/48_store.md R375. -/
theorem test_stmw :
    after (start [(1, 0x00003008#32), (30, 0x11111111#32), (31, 0x22222222#32)] [] 0xBFC1FFF8) [1, 30, 31, 96, 98, 101] [0x00002FFF#32, 0x00003000#32, 0x00003001#32, 0x00003002#32, 0x00003003#32, 0x00003004#32, 0x00003005#32, 0x00003006#32, 0x00003007#32, 0x00003008#32] =
      some ([0x00003008#32, 0x11111111#32, 0x22222222#32, 0x00001004#32, 0x00000000#32, 0x00000000#32], [0x00#8, 0x11#8, 0x11#8, 0x11#8, 0x11#8, 0x22#8, 0x22#8, 0x22#8, 0x22#8, 0x00#8]) := by
  decide +kernel

/-- The example of spec/48_store.md R376. -/
theorem test_stswi :
    after (start [(4, 0x00002000#32), (5, 0x01020304#32), (6, 0x05060708#32)] [] 0x7CA435AA) [4, 5, 6, 96, 98, 101] [0x00001FFF#32, 0x00002000#32, 0x00002001#32, 0x00002002#32, 0x00002003#32, 0x00002004#32, 0x00002005#32, 0x00002006#32] =
      some ([0x00002000#32, 0x01020304#32, 0x05060708#32, 0x00001004#32, 0x00000000#32, 0x00000000#32], [0x00#8, 0x01#8, 0x02#8, 0x03#8, 0x04#8, 0x05#8, 0x06#8, 0x00#8]) := by
  decide +kernel

/-- The example of spec/48_store.md R377. -/
theorem test_stswx :
    after (start [(4, 0x00002000#32), (5, 0x01020304#32), (6, 0x05060708#32), (7, 0x00000010#32), (101, 0x00000003#32)] [] 0x7CA43D2A) [4, 5, 6, 7, 96, 98, 101] [0x0000200F#32, 0x00002010#32, 0x00002011#32, 0x00002012#32, 0x00002013#32] =
      some ([0x00002000#32, 0x01020304#32, 0x05060708#32, 0x00000010#32, 0x00001004#32, 0x00000000#32, 0x00000003#32], [0x00#8, 0x01#8, 0x02#8, 0x03#8, 0x00#8]) := by
  decide +kernel

/-- The example of spec/49_move_system.md R386. -/
theorem test_mfspr :
    after (start [(99, 0x00001234#32)] [] 0x7C6802A6) [3, 96, 98, 99, 101] [] =
      some ([0x00001234#32, 0x00001004#32, 0x00000000#32, 0x00001234#32, 0x00000000#32], []) := by
  decide +kernel

/-- The example of spec/49_move_system.md R387. -/
theorem test_mtspr :
    after (start [(3, 0x00000005#32)] [] 0x7C6903A6) [3, 96, 98, 100, 101] [] =
      some ([0x00000005#32, 0x00001004#32, 0x00000000#32, 0x00000005#32, 0x00000000#32], []) := by
  decide +kernel

/-- The example of spec/49_move_system.md R388. -/
theorem test_mfcr :
    after (start [(98, 0x12345678#32)] [] 0x7C600026) [3, 96, 98, 101] [] =
      some ([0x12345678#32, 0x00001004#32, 0x12345678#32, 0x00000000#32], []) := by
  decide +kernel

/-- The example of spec/49_move_system.md R389. -/
theorem test_mtcrf :
    after (start [(3, 0xABCDEF12#32), (98, 0x55555555#32)] [] 0x7C681120) [3, 96, 98, 101] [] =
      some ([0xABCDEF12#32, 0x00001004#32, 0xA5555552#32, 0x00000000#32], []) := by
  decide +kernel

/-- The example of spec/49_move_system.md R390. -/
theorem test_mcrxr :
    after (start [(98, 0x00000000#32), (101, 0xA0000005#32)] [] 0x7C800400) [96, 98, 101] [] =
      some ([0x00001004#32, 0x0A000000#32, 0x00000005#32], []) := by
  decide +kernel

/-- The example of spec/49_move_system.md R391. -/
theorem test_sc :
    after (start [] [] 0x44000002) [96, 98, 101] [] =
      some ([0x00001004#32, 0x00000000#32, 0x00000000#32], []) := by
  decide +kernel

/-- A division by zero completes: pc advances, and rA, rB, CR and XER keep (spec/43_mul_div_cmp.md R231, R242). -/
theorem test_divw_by_zero :
    after (start [(4, 7#32), (98, 0x12345678#32), (101, 0x20000001#32)] [] 0x7C642BD6) [4, 5, 96, 98, 101] [] =
      some ([7#32, 0#32, 0x1004#32, 0x12345678#32, 0x20000001#32], []) := by
  decide +kernel

/-- A word store at 0xFFFFFFFE wraps to address 0 (spec/20_memory.md R64). -/
theorem test_stw_wraps :
    after (start [(3, 0x01020304#32), (4, 0xFFFFFFFE#32)] [] 0x90640000) [96]
        [0xFFFFFFFD#32, 0xFFFFFFFE#32, 0xFFFFFFFF#32, 0#32, 1#32, 2#32] =
      some ([0x1004#32], [0#8, 1#8, 2#8, 3#8, 4#8, 0#8]) := by
  decide +kernel

/-- A core with 0x2000 bytes of memory from 0x1000 on, at pc 0x1000 with the word there. -/
def bounded (regs : List (Nat × Word)) (word : Nat) : State :=
  (regs.foldl (fun s p => s.regWrite p.1 p.2)
    (State.launch 0x1000#32 { ResetState.chosen with mem := { base := 0x1000, size := 0x2000, cells := [] } })).withFetchWord 32 word

/-- A word store across the end of the implemented memory writes its first two bytes, drops the others, and the
dropped ones read 0 (spec/20_memory.md R66). -/
theorem test_stw_at_the_end_of_memory :
    after (bounded [(3, 0x01020304#32), (4, 0x2FFE#32)] 0x90640000) [96]
        [0x2FFE#32, 0x2FFF#32, 0x3000#32, 0x3001#32] =
      some ([0x1004#32], [1#8, 2#8, 0#8, 0#8]) := by
  decide +kernel

/-- An update form with rA = rD keeps the address (spec/47_load.md R331). -/
theorem test_lwzu_same_register :
    after (start [(4, 0x2000#32)] [(0x2004#32, 0xAB#8)] 0x84840004) [4] [] = some ([0x2004#32], []) := by
  decide +kernel

/-- addi with rA = 0 takes zero, not r0 (spec/42_add_sub.md R216). -/
theorem test_addi_register_zero :
    after (start [(0, 0x55#32)] [] 0x38600007) [0, 3] [] = some ([0x55#32, 7#32], []) := by
  decide +kernel

/-- mfspr and mtspr with XER's PowerPC number 1 halt the core at the instruction (spec/10_state.md R32). -/
theorem test_spr_1_halts :
    holdsAfter (start [(3, 9#32)] [] 0x7C6102A6) (fun t => t.fatal == some .spr && t.pc == 0x1000#32 &&
        t.readGpr 3#5 == 9#32) = true ∧
      holdsAfter (start [(3, 9#32)] [] 0x7C6103A6) (fun t => t.fatal == some .spr && t.xer == 0#32) = true := by
  decide +kernel

/-- A misaligned pc is refused (log 7), unless the core is halted. -/
theorem test_misaligned_pc_refused :
    isRefused ((start [] [] 0x44000002).setPc 0x1002#32) = true ∧
      isRefused (((start [] [] 0x44000002).setPc 0x1002#32).fatalStop .undecoded) = false := by
  decide +kernel

/-- SYSCALL_EVENT is raised by sc and by no other word (spec/60_exceptions.md R410). -/
theorem test_syscall_event :
    (start [] [] 0x44000002).syscallEvent = true ∧ (start [] [] 0x60000000).syscallEvent = false := by
  decide +kernel

/-- nRegs() is 104; the unmapped slot 102 reads 0 and ignores a write; a write to slot 101 reads back
(spec/10_state.md R38, R39). -/
theorem test_debug_index_space :
    let s := (State.reset.regWrite 102 0xFFFFFFFF#32).regWrite 101 0x80000005#32
    nRegs = 104 ∧ s.regRead 102 = 0#32 ∧ s.regRead 101 = 0x80000005#32 ∧ s.regRead nRegs = 0#32 := by
  decide +kernel

/-! ## The hypotheses of the statements can be met -/

/-- Instructions at the ends of the two ranges well-formedness checks. -/
theorem witness_encodeDecodeRoundTrip :
    (Instr.lswi 31#5 31#5 32).wf = true ∧ (Instr.stswi 0#5 0#5 1).wf = true ∧ (Instr.mfspr 0#5 1023).wf = true ∧
      (Instr.mtspr 0 0#5).wf = true := by decide

/-- The first and the last row of the table differ in position. -/
theorem witness_decodeTableUnambiguous :
    ∃ j k : Fin decodeTable.length, j ≠ k ∧ j.val = 0 ∧ k.val = 176 :=
  ⟨⟨0, by decide +kernel⟩, ⟨176, by decide +kernel⟩, by decide +kernel⟩

theorem witness_decodedInstructionWellFormed :
    (decodeWord 0x7FE404AA#32).toOption = some (.lswi 31#5 4#5 32) := by decide +kernel

/-- Words at the ends of each clause's range. -/
theorem witness_undecodedWordsRejectedByName :
    (Field.opcd 0x03FFFFFF#32 = 0#6 ∧ Field.opcd 0x78000000#32 = 30#6 ∧ 48 ≤ (Field.opcd 0xC0000000#32).toNat ∧
      48 ≤ (Field.opcd 0xFFFFFFFF#32).toNat) ∧
    (Field.opcd 0x47FFFFFD#32 = 17#6 ∧ (0x47FFFFFD#32 : Word).getLsbD 1 = false) ∧
    (Field.opcd 0x4C000064#32 = 19#6 ∧
      (Field.xo10 0x4C000064#32).toNat ∉ [0, 16, 33, 129, 193, 225, 257, 289, 417, 449, 528]) ∧
    (Field.opcd 0x7C0004AC#32 = 31#6 ∧ (Field.xo10 0x7C0004AC#32).toNat = 598) := by decide

/-- Two different words of the lwzx row that agree outside its reserved bit, and two of the sc row. -/
theorem witness_reservedBitsIgnored :
    ((0x7C64282E#32 &&& 0xFC0007FE#32 : Word) = 0x7C00002E#32 ∧
      (0x7C64282E#32 &&& ~~~0x00000001#32 : Word) = 0x7C64282F#32 &&& ~~~0x00000001#32) ∧
    ((0x44000002#32 &&& 0xFC000002#32 : Word) = 0x44000002#32 ∧
      (0x44000002#32 &&& ~~~0x03FFFFFD#32 : Word) = 0x47FFFFFF#32 &&& ~~~0x03FFFFFD#32) := by decide

theorem witness_stepRunsDecodedInstruction :
    let s := start [] [] 0x44000002
    s.fatal = none ∧ s.pc.toNat % 4 = 0 ∧ Instr.sc.wf = true ∧
      (decodeBytes [s.mem.readByte s.pc, s.mem.readByte (s.pc + 1#32), s.mem.readByte (s.pc + 2#32),
        s.mem.readByte (s.pc + 3#32)]).toOption = some (.sc, []) := by decide +kernel

theorem witness_haltedCoreChangesNothing :
    ((start [] [] 0x44000002).fatalStop .spr).fatal = some .spr ∧
      ((start [] [] 0x44000002).fatalStop .undecoded).fatal = some .undecoded := by decide +kernel

/-- An undecoded word inside the memory, and a fetch just past its end. -/
theorem witness_undecodedWordHalts :
    (let s := start [] [] 0x7C0004AC
     s.fatal = none ∧ s.pc.toNat % 4 = 0 ∧ (decodeWord s.fetch).toOption = none) ∧
    (let s := (bounded [] 0x44000002).setPc 0x3000#32
     s.fatal = none ∧ s.pc.toNat % 4 = 0 ∧ s.mem.implements s.pc = false ∧
      s.mem.implements (s.pc + 1#32) = false ∧ s.mem.implements (s.pc + 2#32) = false ∧
      s.mem.implements (s.pc + 3#32) = false) := by decide +kernel

/-- A halted core with a misaligned pc, a running one at the last aligned pc, and running ones with each misaligned
remainder. -/
theorem witness_stepOutcomes :
    (let s := (State.reset.setPc 1#32).fatalStop .spr
     s.fatal ≠ none) ∧
    (let s := State.reset.setPc 0xFFFFFFFC#32
     s.fatal = none ∧ s.pc.toNat % 4 = 0) ∧
    ([1#32, 2#32, 0xFFFFFFFF#32].all fun pc =>
      let s := State.reset.setPc pc
      s.fatal == none && s.pc.toNat % 4 != 0) = true := by decide +kernel

theorem witness_fatalStopCauses :
    (∃ t, step (start [] [] 0x7C0004AC) = .next t ∧ (t.fatal == some .undecoded) = true) ∧
      ∃ t, step (start [] [] 0x7C6102A6) = .next t ∧ (t.fatal == some .spr) = true :=
  ⟨holdsAfter_next _ _ (by decide +kernel), holdsAfter_next _ _ (by decide +kernel)⟩

/-- A store of a zero over a nonzero byte and of a nonzero byte, from a state with the invariant. -/
theorem witness_stepKeepsInvariant :
    ∃ s, s.Inv ∧ ∃ t, step s = .next t ∧ (t.mem != s.mem) = true :=
  ⟨start [(3, 0x01020004#32), (4, 0x2000#32)] [(0x2002#32, 9#8)] 0x90640000,
    ⟨by decide +kernel, by decide +kernel⟩, holdsAfter_next _ _ (by decide +kernel)⟩

/-- A record form that changes XER. -/
theorem witness_xerStorageBitsNeverChange :
    ∃ t, step (start [(4, 0x7FFFFFFF#32), (5, 1#32), (101, 0x1FFFFFFF#32)] [] 0x7C642E15) = .next t ∧
      (t.xer == 0xDFFFFFFF#32) = true ∧ 28 < 29 :=
  (holdsAfter_next _ _ (by decide +kernel)).imp fun _ h => ⟨h.1, h.2, by decide⟩

/-- An addo without overflow, SO being set. -/
theorem witness_summaryOverflowIsSticky :
    (start [(101, 0x80000000#32)] [] 0x7C642E14).so = true ∧
      (decodeWord (start [(101, 0x80000000#32)] [] 0x7C642E14).fetch).toOption = some (.addo 3#5 4#5 5#5) ∧
      ∃ t, step (start [(101, 0x80000000#32)] [] 0x7C642E14) = .next t ∧ (t.ov == false) = true :=
  ⟨by decide +kernel, by decide +kernel, holdsAfter_next _ _ (by decide +kernel)⟩

/-- A step of a load, which is no store, from a memory that is not empty. -/
theorem witness_onlyStoresChangeMemory :
    (decodeWord (start [] [(0x2000#32, 9#8)] 0x80640000).fetch).toOption = some (.lwz 3#5 4#5 0#16) ∧
      isStore (.lwz 3#5 4#5 0#16) = false ∧
      ∃ t, step (start [] [(0x2000#32, 9#8)] 0x80640000) = .next t ∧ (t.memRead 0x2000#32 == 9#8) = true :=
  ⟨by decide +kernel, by decide, holdsAfter_next _ _ (by decide +kernel)⟩

/-- Steps that change each of the registers the statement names. -/
theorem witness_specialRegisterWriters :
    (∃ t, step (start [(3, 9#32)] [] 0x7C6043A6) = .next t ∧ (t.usprg0 != 0#32) = true) ∧
      (∃ t, step (start [(3, 9#32)] [] 0x7C6443A6) = .next t ∧ (t.sprg4 != 0#32) = true) ∧
      (∃ t, step (start [(3, 9#32)] [] 0x7C6543A6) = .next t ∧ (t.sprg5 != 0#32) = true) ∧
      (∃ t, step (start [(3, 9#32)] [] 0x7C6643A6) = .next t ∧ (t.sprg6 != 0#32) = true) ∧
      (∃ t, step (start [(3, 9#32)] [] 0x7C6743A6) = .next t ∧ (t.sprg7 != 0#32) = true) ∧
      (∃ t, step (start [] [] 0x48000011) = .next t ∧ (t.lr != 0#32) = true) ∧
      ∃ t, step (start [] [] 0x42000008) = .next t ∧ (t.ctr != 0#32) = true :=
  ⟨holdsAfter_next _ _ (by decide +kernel), holdsAfter_next _ _ (by decide +kernel),
    holdsAfter_next _ _ (by decide +kernel), holdsAfter_next _ _ (by decide +kernel),
    holdsAfter_next _ _ (by decide +kernel), holdsAfter_next _ _ (by decide +kernel),
    holdsAfter_next _ _ (by decide +kernel)⟩

/-- The memory of the reset state implements every address. -/
theorem reset_implements (a : Word) : State.reset.mem.implements a = true := by
  have h := a.isLt
  simp [State.reset, State.launch, ResetState.chosen, Memory.implements, Config.memBase, Config.memSize]
  omega

/-- stw r3,4(r0) at pc 0. -/
theorem witness_storedWordIsFetchedNext :
    State.reset.eaD 0#5 4#16 = State.reset.pc + 4#32 ∧
      ∀ a, InAccess (State.reset.pc + 4#32) 4 a → State.reset.mem.implements a = true :=
  ⟨by decide +kernel, fun a _ => reset_implements a⟩

/-- Every value of BO falls under exactly one clause. -/
theorem witness_branchConditionTable :
    (List.range 32).all (fun n =>
      ([[0, 1], [2, 3], [4, 5, 6, 7], [8, 9], [10, 11], [12, 13, 14, 15], [16, 17, 24, 25], [18, 19, 26, 27],
        [20, 21, 22, 23, 28, 29, 30, 31]] : List (List Nat)).countP (fun l => l.contains (BitVec.ofNat 5 n).toNat) == 1) =
      true := by decide

/-- The most negative dividend with divisor 1, and another dividend with divisor -1. -/
theorem witness_definedDivisionResults :
    (let s := start [(4, 0x80000000#32), (5, 1#32)] [] 0x7C642BD6
     s.readGpr 5#5 ≠ 0#32 ∧ (s.readGpr 4#5 ≠ 0x80000000#32 ∨ s.readGpr 5#5 ≠ 0xFFFFFFFF#32)) ∧
    (let s := start [(4, 0x80000001#32), (5, 0xFFFFFFFF#32)] [] 0x7C642BD6
     s.readGpr 5#5 ≠ 0#32 ∧ (s.readGpr 4#5 ≠ 0x80000000#32 ∨ s.readGpr 5#5 ≠ 0xFFFFFFFF#32)) := by
  decide +kernel

/-- A zero divisor, and the most negative dividend with divisor -1. -/
theorem witness_undefinedDivisionCompletes :
    (start [] [] 0x7C642BD6).readGpr 5#5 = 0#32 ∧
      (let s := start [(4, 0x80000000#32), (5, 0xFFFFFFFF#32)] [] 0x7C642BD6
       s.readGpr 4#5 = 0x80000000#32 ∧ s.readGpr 5#5 = 0xFFFFFFFF#32) := by decide +kernel

/-- Bounds that meet each clause, at the ends of its range. -/
theorem witness_maskGenerator :
    ((0#5 : BitVec 5).toNat + 1 < (2#5 : BitVec 5).toNat ∧ (0#5 : BitVec 5).toNat + 1 < (31#5 : BitVec 5).toNat) ∧
      (1#5 : BitVec 5).toNat = (0#5 : BitVec 5).toNat + 1 ∧ (31#5 : BitVec 5).toNat = (30#5 : BitVec 5).toNat + 1 := by
  decide

/-- The first and the last number of the SPR map. -/
theorem witness_sprMoveResults : (8 ∈ [8, 9, 256, 260, 261, 262, 263]) ∧ 263 ∈ [8, 9, 256, 260, 261, 262, 263] := by
  decide

/-- Numbers below, between and above those of the SPR map. -/
theorem witness_unmappedSprHalts :
    0 ∉ [8, 9, 256, 260, 261, 262, 263] ∧ 1 ∉ [8, 9, 256, 260, 261, 262, 263] ∧
      257 ∉ [8, 9, 256, 260, 261, 262, 263] ∧ 264 ∉ [8, 9, 256, 260, 261, 262, 263] ∧
      1023 ∉ [8, 9, 256, 260, 261, 262, 263] := by decide

/-- Addresses at the ends of a bounded memory: the first and the last inside, the neighbours outside. -/
theorem witness_byteWriteThenRead :
    let m := (bounded [] 0x44000002).mem
    m.implements 0xFFF#32 = false ∧ m.implements 0x1000#32 = true ∧ m.implements 0x2FFF#32 = true ∧
      m.implements 0x3000#32 = false := by decide +kernel

/-- An access that wraps at the top of the address space, in a memory that implements all of it. -/
theorem witness_mixedWidthAccesses :
    ∀ x, InAccess 0xFFFFFFFE#32 4 x → State.reset.mem.implements x = true := fun x _ => reset_implements x

/-- One register to load, and all 32: the last index of each. -/
theorem witness_loadMultipleResult :
    (31#5 : Reg).toNat + 0 < 32 ∧ (0#5 : Reg).toNat + 31 < 32 := by decide

/-- Byte counts 1 and 32, and 0 and 127 in TBC; a register the string reaches, one it does not reach, and the base
register before the end and at the end of the string (rD = r5, rA = r6 or r5). -/
theorem witness_stringLoadResults :
    ((1 ≤ 1 ∧ 1 ≤ 32) ∧ 1 ≤ 32 ∧ 32 ≤ 32) ∧
      (0#32 : Word).toNat % 128 = 0 ∧ (0xFFFFFFFF#32 : Word).toNat % 128 = 127 ∧
      (4 * 1 < 6 ∧ ¬ ((5#5 : Reg) + BitVec.ofNat 5 1 = 6#5 ∧ 4 * 1 + 4 < 6)) ∧ ¬ (4 * 2 < 6 ∧ True) ∧
      ((5#5 : Reg) + BitVec.ofNat 5 0 = 5#5 ∧ 4 * 0 + 4 < 6) := by decide

/-- A byte that is implemented, the last of a word at the end of a bounded memory, and one that is not. -/
theorem witness_storeResults :
    let m := (bounded [] 0x44000002).mem
    3 < 4 ∧ m.implements (0x2FFC#32 + BitVec.ofNat 32 3) = true ∧
      m.implements (0x2FFD#32 + BitVec.ofNat 32 3) = false := by decide +kernel

theorem witness_storeUpdateResults :
    0 < 1 ∧ State.reset.mem.implements (State.reset.eaD 0#5 0xFFFF#16 + BitVec.ofNat 32 0) = true :=
  ⟨by decide, reset_implements _⟩

/-- The last byte of the last register, for one register and for all 32. -/
theorem witness_storeMultipleResult :
    ((31#5 : Reg).toNat + 0 < 32 ∧ (0#5 : Reg).toNat + 31 < 32 ∧ 3 < 4) ∧
      State.reset.mem.implements (State.reset.eaD 0#5 0#16 + BitVec.ofNat 32 (4 * 31 + 3)) = true :=
  ⟨by decide, reset_implements _⟩

/-- Byte counts at both ends; a byte of a register that is stored, and one of the base register, which is skipped. -/
theorem witness_stringStoreResults :
    ((1 ≤ 1 ∧ 1 ≤ 32) ∧ 1 ≤ 32 ∧ 32 ≤ 32) ∧
      (5 < 6 ∧ ¬ ((5#5 : Reg) + BitVec.ofNat 5 (5 / 4) = 6#5 ∧ 4 * (5 / 4) + 4 < 6)) ∧
      ((5#5 : Reg) + BitVec.ofNat 5 (3 / 4) = 5#5 ∧ 4 * (3 / 4) + 4 < 6) ∧
      State.reset.mem.implements (State.reset.readBase 6#5 + BitVec.ofNat 32 5) = true :=
  ⟨by decide, by decide, by decide, reset_implements _⟩

/-- Mapped and unmapped indices at the ends of the ranges, two different ones, and the first index beyond the slots. -/
theorem witness_debugRegisterPort :
    (31 < 32 ∧ ¬ (32 < 32 ∨ 32 = 96 ∨ 32 = 98 ∨ 32 = 99 ∨ 32 = 100 ∨ 32 = 101)) ∧
      ¬ (97 < 32 ∨ 97 = 96 ∨ 97 = 98 ∨ 97 = 99 ∨ 97 = 100 ∨ 97 = 101) ∧
      ¬ (102 < 32 ∨ 102 = 96 ∨ 102 = 98 ∨ 102 = 99 ∨ 102 = 100 ∨ 102 = 101) ∧ 31 ≠ 96 ∧
      101 < nRegs ∧ nRegs ≤ 104 := by decide

theorem witness_debugMemoryAndReturn : State.reset.mem.wf = true := by decide +kernel

end Sys2Proof.Tests
end

section
/-! SUPPORT. The scope statements (00_scope.md R12): a step of a running core is the instruction at `pc`, and nothing
around it. -/

namespace Sys2Proof

/-- The byte decoder reads the word of the first four bytes and leaves the others. -/
theorem decodeBytes_eq_ok_iff {b0 b1 b2 b3 : Byte} {tail rest : List Byte} {i : Instr} :
    decodeBytes (b0 :: b1 :: b2 :: b3 :: tail) = .ok (i, rest) ↔
      decodeWord (wordOfBytes b0 b1 b2 b3) = .ok i ∧ tail = rest := by
  rw [decodeBytes]
  cases decodeWord (wordOfBytes b0 b1 b2 b3) with
  | error e => simp [Except.map]
  | ok j => simp [Except.map]

namespace Machine

/-- What the four bytes from `pc` on decode to, the fetched word decodes to (20_memory.md R67). -/
theorem State.decodeWord_fetch_of_decodeBytes {s : State} {i : Instr} {rest : List Byte}
    (h : decodeBytes [s.mem.readByte s.pc, s.mem.readByte (s.pc + 1#32), s.mem.readByte (s.pc + 2#32),
      s.mem.readByte (s.pc + 3#32)] = .ok (i, rest)) : decodeWord s.fetch = .ok i := by
  obtain ⟨hword, -⟩ := decodeBytes_eq_ok_iff.mp h
  rw [State.fetch_eq, hword]

/-- Of the four cases of a step, a clear latch, an aligned `pc` and a decoded word leave only the last. -/
theorem step_eq_exec {s : State} {i : Instr} (hrun : s.fatal = none) (hpc : s.pcAligned = true)
    (hdec : decodeWord s.fetch = .ok i) : step s = exec i s := by
  rcases step_cases s with ⟨c, hhalt, -⟩ | ⟨-, hmis, -⟩ | ⟨e, -, -, hbad, -⟩ | ⟨j, -, -, hj, hstep⟩
  · simp [hrun] at hhalt
  · simp [hpc] at hmis
  · simp [hdec] at hbad
  · obtain rfl : i = j := Except.ok.inj (hdec.symm.trans hj)
    exact hstep

/-- Settles O7: the fetched word is the word of the four bytes at `pc`, so the step is `exec` of what they decode to.
That `i` is well-formed is not needed. -/
theorem stepRunsDecodedInstruction : Obligations.StepRunsDecodedInstruction := by
  intro s i rest hrun hpc _ hbytes
  exact step_eq_exec hrun (s.pcAligned_iff.mpr hpc) (State.decodeWord_fetch_of_decodeBytes hbytes)

end Machine
end Sys2Proof
end

section
/-! SUPPORT. The special-purpose registers by number (10_state.md R32), and the meanings of `mfspr` and `mtspr` on a
mapped and on an unmapped number. -/

namespace Sys2Proof.Machine

/-- The number under which `SPR_MAP` lists a register (`sprOf_eq_some_iff`). -/
def Spr.number : Spr → Nat
  | .lr => 8
  | .ctr => 9
  | .usprg0 => 256
  | .sprg4 => 260
  | .sprg5 => 261
  | .sprg6 => 262
  | .sprg7 => 263

@[simp] theorem sprOf_number (x : Spr) : sprOf x.number = some x := by
  cases x <;> rfl

/-- A mapped number is the number of some register. -/
theorem Spr.exists_number_eq {n : Nat} (h : n ∈ [8, 9, 256, 260, 261, 262, 263]) : ∃ x : Spr, x.number = n := by
  simp only [List.mem_cons, List.not_mem_nil, or_false] at h
  rcases h with rfl | rfl | rfl | rfl | rfl | rfl | rfl
  · exact ⟨.lr, rfl⟩
  · exact ⟨.ctr, rfl⟩
  · exact ⟨.usprg0, rfl⟩
  · exact ⟨.sprg4, rfl⟩
  · exact ⟨.sprg5, rfl⟩
  · exact ⟨.sprg6, rfl⟩
  · exact ⟨.sprg7, rfl⟩

/-- `SPR_MAP` names the register `x` for the number of `x` alone. -/
theorem sprOf_eq_some_iff {n : Nat} {x : Spr} : sprOf n = some x ↔ x.number = n := by
  constructor
  · intro h
    have hmem : n ∈ [8, 9, 256, 260, 261, 262, 263] := by
      by_contra hn
      simp [sprOf_none n hn] at h
    obtain ⟨y, rfl⟩ := Spr.exists_number_eq hmem
    rw [sprOf_number] at h
    rw [Option.some.inj h]
  · rintro rfl
    exact sprOf_number x

/-! ### `State.writeSpr` -/

/-- A special-purpose register after a write to one: registers are the same when their numbers are. -/
theorem State.readSpr_writeSpr (s : State) (x y : Spr) (v : Word) :
    (s.writeSpr x v).readSpr y = if x.number = y.number then v else s.readSpr y := by
  cases x <;> cases y <;> rfl

@[simp] theorem State.writeSpr_pc (s : State) (x : Spr) (v : Word) : (s.writeSpr x v).pc = s.pc := by
  cases x <;> rfl
@[simp] theorem State.writeSpr_cr (s : State) (x : Spr) (v : Word) : (s.writeSpr x v).cr = s.cr := by
  cases x <;> rfl
@[simp] theorem State.writeSpr_xer (s : State) (x : Spr) (v : Word) : (s.writeSpr x v).xer = s.xer := by
  cases x <;> rfl
@[simp] theorem State.writeSpr_fatal (s : State) (x : Spr) (v : Word) : (s.writeSpr x v).fatal = s.fatal := by
  cases x <;> rfl
@[simp] theorem State.writeSpr_mem (s : State) (x : Spr) (v : Word) : (s.writeSpr x v).mem = s.mem := by
  cases x <;> rfl
@[simp] theorem State.writeSpr_readGpr (s : State) (x : Spr) (v : Word) (r : Reg) :
    (s.writeSpr x v).readGpr r = s.readGpr r := by
  cases x <;> rfl

/-! ### `mfspr` and `mtspr` -/

theorem exec_mfspr_number (x : Spr) (r : Reg) (s : State) :
    exec (.mfspr r x.number) s = (s.writeGpr r (s.readSpr x)).complete := by
  simp only [exec, execMfspr, sprOf_number]

theorem exec_mtspr_number (x : Spr) (r : Reg) (s : State) :
    exec (.mtspr x.number r) s = (s.writeSpr x (s.readGpr r)).complete := by
  simp only [exec, execMtspr, sprOf_number]

theorem exec_mfspr_unmapped {n : Nat} (h : sprOf n = none) (r : Reg) (s : State) :
    exec (.mfspr r n) s = .next (s.fatalStop .spr) := by
  simp only [exec, execMfspr, h, State.halt]

theorem exec_mtspr_unmapped {n : Nat} (h : sprOf n = none) (r : Reg) (s : State) :
    exec (.mtspr n r) s = .next (s.fatalStop .spr) := by
  simp only [exec, execMtspr, h, State.halt]

/-- The content of a register as a choice on its number, the wording of 10_state.md R32. -/
theorem State.readSpr_eq_ite (s : State) (x : Spr) :
    s.readSpr x = if x.number = 8 then s.lr else if x.number = 9 then s.ctr else if x.number = 256 then s.usprg0
      else if x.number = 260 then s.sprg4 else if x.number = 261 then s.sprg5 else if x.number = 262 then s.sprg6
      else s.sprg7 := by
  cases x <;> rfl

/-- Settles O44: a mapped number is some `x.number`, where `mfspr` is a read of `x` and `mtspr` a write of `x`. -/
theorem sprMoveResults : Obligations.SprMoveResults := by
  intro r n s hn v
  obtain ⟨x, rfl⟩ := Spr.exists_number_eq hn
  refine ⟨?mfspr, (s.writeSpr x v).setPc (s.writeSpr x v).nextPc, exec_mtspr_number x r s, ?mtspr⟩
  case mfspr =>
    rw [← State.readSpr_eq_ite]
    exact WordEffect.of_finishArith (exec_mfspr_number x r s)
  case mtspr =>
    have hspr := fun y => s.readSpr_writeSpr x y v
    exact ⟨hspr .lr, hspr .ctr, hspr .usprg0, hspr .sprg4, hspr .sprg5, hspr .sprg6, hspr .sprg7, by simp,
      fun _ _ => by simp, by simp, by simp, by simp [Advances], MemSame.of_eq (by simp)⟩

/-- Settles O45: outside `SPR_MAP` both moves are the fatal stop, which writes the latch alone. -/
theorem unmappedSprHalts : Obligations.UnmappedSprHalts := fun r n s hn =>
  have hnone := sprOf_none n hn
  ⟨⟨_, exec_mfspr_unmapped hnone r s, rfl⟩, ⟨_, exec_mtspr_unmapped hnone r s, rfl⟩⟩

end Sys2Proof.Machine
end

section
/-! SUPPORT. The invariants of a step (10_state.md R23, R27 to R31, R37): what the shape of a step says about `pc`,
memory, XER and the special-purpose registers. -/

namespace Sys2Proof.Machine

variable {i : Instr} {s t : State}

/-- A step that answers a next state touches the latch alone (a halted core, an undecoded word), or is a decoded
instruction of one of the six shapes. -/
theorem step_next_shape (h : step s = .next t) :
    t = { s with fatal := t.fatal } ∨ ∃ i, decodeWord s.fetch = .ok i ∧ Shape i s t := by
  rcases step_next_cases h with ⟨c, -, rfl⟩ | ⟨e, -, -, -, rfl⟩ | ⟨i, -, -, hdec, hexec⟩
  · exact .inl rfl
  · exact .inl rfl
  · exact .inr ⟨i, hdec, shape_of_exec hexec⟩

theorem Branches.xer (h : Branches i s t) : t.xer = s.xer := by rw [h.rest]

theorem Branches.mem (h : Branches i s t) : t.mem = s.mem := by rw [h.rest]

/-! ### `pc` and memory -/

theorem State.inv_iff (s : State) : s.Inv ↔ s.pc.toNat % 4 = 0 ∧ s.mem.wf = true := by
  rw [State.Inv, s.pcAligned_iff]

/-- Every shape keeps `pc` aligned: a branch by its target, a stop by staying, the others by the advance. -/
theorem Shape.pc_aligned (h : Shape i s t) (hs : s.pc.toNat % 4 = 0) : t.pc.toNat % 4 = 0 := by
  have hnext : (s.pc + 4#32).toNat % 4 = 0 := aligned_add hs (by decide)
  cases h with
  | computes hc => rwa [hc.pc]
  | mcrxr _ _ hc => rwa [hc.pc]
  | branches hb => exact hb.aligned hs
  | stores _ hst => rwa [hst.pc]
  | writesSpr _ _ _ _ _ ht => rwa [ht, State.setPc_pc]
  | stops _ _ _ _ ht => rwa [ht, State.fatalStop_pc]

/-- Only a store answers another memory. -/
theorem Shape.mem_cases (h : Shape i s t) : t.mem = s.mem ∨ isStore i = true ∧ s.mem.Kept t.mem := by
  cases h with
  | computes hc => exact .inl hc.mem
  | mcrxr _ _ hc => exact .inl hc.mem
  | branches hb => exact .inl hb.mem
  | stores hi hst => exact .inr ⟨hi, hst.mem⟩
  | writesSpr _ _ _ _ _ ht => exact .inl (by simp [ht])
  | stops _ _ _ _ ht => exact .inl (by simp [ht])

theorem step_mem_cases (h : step s = .next t) :
    t.mem = s.mem ∨ ∃ i, decodeWord s.fetch = .ok i ∧ isStore i = true ∧ s.mem.Kept t.mem := by
  rcases step_next_shape h with hlatch | ⟨i, hdec, hshape⟩
  · exact .inl (by rw [hlatch])
  · exact hshape.mem_cases.imp_right fun hstore => ⟨i, hdec, hstore⟩

theorem step_mem_kept (h : step s = .next t) : s.mem.Kept t.mem := by
  rcases step_mem_cases h with hmem | ⟨_, -, -, hkept⟩
  · rw [hmem]; exact ⟨id, rfl, rfl⟩
  · exact hkept

theorem step_pc_aligned (h : step s = .next t) (hs : s.pc.toNat % 4 = 0) : t.pc.toNat % 4 = 0 := by
  rcases step_next_shape h with hlatch | ⟨i, -, hshape⟩
  · rwa [hlatch]
  · exact hshape.pc_aligned hs

/-! ### XER -/

/-- XER changes only in a computing instruction, which clears SO only if it is `mcrxr`. -/
theorem Shape.xer_cases (h : Shape i s t) :
    t.xer = s.xer ∨ Computes s t ∧ ((s.so = true → t.so = true) ∨ ∃ f, i = .mcrxr f) := by
  cases h with
  | computes hc hso => exact .inr ⟨hc, .inl hso⟩
  | mcrxr f hi hc => exact .inr ⟨hc, .inr ⟨f, hi⟩⟩
  | branches hb => exact .inl hb.xer
  | stores _ hst => exact .inl hst.xer
  | writesSpr _ _ _ _ _ ht => exact .inl (by simp [ht])
  | stops _ _ _ _ ht => exact .inl (by simp [ht])

theorem step_xer_cases (h : step s = .next t) :
    t.xer = s.xer ∨ Computes s t ∧ ((s.so = true → t.so = true) ∨ ∃ f, decodeWord s.fetch = .ok (.mcrxr f)) := by
  rcases step_next_shape h with hlatch | ⟨i, hdec, hshape⟩
  · exact .inl (by rw [hlatch])
  · simpa [hdec] using hshape.xer_cases

/-! ### The special-purpose registers -/

/-- The instructions that may change the special-purpose register `x` (10_state.md R29 to R31). -/
def MayWriteSpr (i : Instr) (x : Spr) : Prop :=
  (∃ r, i = .mtspr x.number r) ∨ (x = .lr ∧ Links i) ∨ (x = .ctr ∧ Decrements i)

theorem Computes.readSpr (h : Computes s t) (x : Spr) : t.readSpr x = s.readSpr x := by
  cases x with
  | lr => exact h.lr
  | ctr => exact h.ctr
  | usprg0 => exact h.usprg0
  | sprg4 => exact h.sprg4
  | sprg5 => exact h.sprg5
  | sprg6 => exact h.sprg6
  | sprg7 => exact h.sprg7

theorem Stores.readSpr (h : Stores s t) (x : Spr) : t.readSpr x = s.readSpr x := by
  cases x with
  | lr => exact h.lr
  | ctr => exact h.ctr
  | usprg0 => exact h.usprg0
  | sprg4 => exact h.sprg4
  | sprg5 => exact h.sprg5
  | sprg6 => exact h.sprg6
  | sprg7 => exact h.sprg7

@[simp] theorem State.setPc_readSpr (s : State) (v : Word) (x : Spr) : (s.setPc v).readSpr x = s.readSpr x := by
  cases x <;> rfl

/-- A state that differs from another in the latch alone has the same special-purpose registers. -/
theorem State.readSpr_of_latch {c : Option FatalCause} (h : t = { s with fatal := c }) (x : Spr) :
    t.readSpr x = s.readSpr x := by
  subst h
  cases x <;> rfl

theorem Branches.mayWriteSpr (h : Branches i s t) {x : Spr} (hne : t.readSpr x ≠ s.readSpr x) : MayWriteSpr i x := by
  have hrest := congrArg (State.readSpr · x) h.rest
  cases x with
  | lr => exact .inr (.inl ⟨rfl, h.lr hne⟩)
  | ctr => exact .inr (.inr ⟨rfl, h.ctr hne⟩)
  | _ => exact absurd hrest hne

theorem Shape.mayWriteSpr (h : Shape i s t) {x : Spr} (hne : t.readSpr x ≠ s.readSpr x) : MayWriteSpr i x := by
  cases h with
  | computes hc => exact absurd (hc.readSpr x) hne
  | mcrxr _ _ hc => exact absurd (hc.readSpr x) hne
  | branches hb => exact hb.mayWriteSpr hne
  | stores _ hst => exact absurd (hst.readSpr x) hne
  | writesSpr n r y hi hn ht =>
    obtain rfl := sprOf_eq_some_iff.mp hn
    have hyx : y.number = x.number := by
      by_contra hyx
      exact hne (by rw [ht, State.setPc_readSpr, State.readSpr_writeSpr, if_neg hyx])
    exact .inl ⟨r, hyx ▸ hi⟩
  | stops _ _ _ _ ht => exact absurd (State.readSpr_of_latch ht x) hne

theorem step_mayWriteSpr (h : step s = .next t) {x : Spr} (hne : t.readSpr x ≠ s.readSpr x) :
    ∃ i, decodeWord s.fetch = .ok i ∧ MayWriteSpr i x := by
  rcases step_next_shape h with hlatch | ⟨i, hdec, hshape⟩
  · exact absurd (State.readSpr_of_latch hlatch x) hne
  · exact ⟨i, hdec, hshape.mayWriteSpr hne⟩

/-- A register that is neither LR nor CTR changes by its own `mtspr` only. -/
theorem step_softwareSpr (h : step s = .next t) {x : Spr} (hlr : x ≠ .lr) (hctr : x ≠ .ctr)
    (hne : t.readSpr x ≠ s.readSpr x) : ∃ r, decodeWord s.fetch = .ok (.mtspr x.number r) := by
  obtain ⟨i, hdec, ⟨r, rfl⟩ | ⟨hx, -⟩ | ⟨hx, -⟩⟩ := step_mayWriteSpr h hne
  · exact ⟨r, hdec⟩
  · exact absurd hx hlr
  · exact absurd hx hctr

theorem step_lr (h : step s = .next t) (hne : t.lr ≠ s.lr) :
    ∃ i, decodeWord s.fetch = .ok i ∧ ((∃ r, i = .mtspr 8 r) ∨ Links i) := by
  obtain ⟨i, hdec, hmt | ⟨-, hlinks⟩ | ⟨hx, -⟩⟩ := step_mayWriteSpr (x := .lr) h hne
  · exact ⟨i, hdec, .inl hmt⟩
  · exact ⟨i, hdec, .inr hlinks⟩
  · exact absurd hx (by decide)

theorem step_ctr (h : step s = .next t) (hne : t.ctr ≠ s.ctr) :
    ∃ i, decodeWord s.fetch = .ok i ∧ ((∃ r, i = .mtspr 9 r) ∨ Decrements i) := by
  obtain ⟨i, hdec, hmt | ⟨hx, -⟩ | ⟨-, hdecr⟩⟩ := step_mayWriteSpr (x := .ctr) h hne
  · exact ⟨i, hdec, .inl hmt⟩
  · exact absurd hx (by decide)
  · exact ⟨i, hdec, .inr hdecr⟩

/-! ### The statements -/

/-- Settles O12: every shape keeps `pc` aligned, and every memory operation keeps the canonical form. -/
theorem stepKeepsInvariant : Obligations.StepKeepsInvariant := by
  intro s t hinv hstep
  obtain ⟨hpc, hwf⟩ := s.inv_iff.mp hinv
  exact t.inv_iff.mpr ⟨step_pc_aligned hstep hpc, (step_mem_kept hstep).wf hwf⟩

/-- Settles O15: XER changes only in computing instructions, and those keep bits 28 to 0. -/
theorem xerStorageBitsNeverChange : Obligations.XerStorageBitsNeverChange := by
  intro s t hstep k hk
  rcases step_xer_cases hstep with hxer | ⟨hc, -⟩
  · rw [hxer]
  · exact hc.xer k hk

/-- Settles O16: a step that changes XER keeps a set SO or is `mcrxr`, which the hypothesis excludes. -/
theorem summaryOverflowIsSticky : Obligations.SummaryOverflowIsSticky := by
  intro s t hstep hso hmcrxr
  rcases step_xer_cases hstep with hxer | ⟨-, hkept | ⟨f, hdec⟩⟩
  · rwa [State.so, hxer]
  · exact hkept hso
  · exact absurd hdec (hmcrxr f)

/-- Settles O17: a step that answers another memory is a store, and a store keeps the implemented range. -/
theorem onlyStoresChangeMemory : Obligations.OnlyStoresChangeMemory := by
  intro s t hstep
  have hkept := step_mem_kept hstep
  refine ⟨hkept.base, hkept.size, fun hno => ?_⟩
  rcases step_mem_cases hstep with hmem | ⟨i, hdec, hstore, -⟩
  · exact MemSame.of_eq hmem
  · exact absurd hstore (by simp [hno i hdec])

/-- Settles O18: a step that changes a special-purpose register is one of that register's writers. -/
theorem specialRegisterWriters : Obligations.SpecialRegisterWriters := by
  intro s t hstep
  refine ⟨step_softwareSpr (x := .usprg0) hstep (by decide) (by decide),
    step_softwareSpr (x := .sprg4) hstep (by decide) (by decide),
    step_softwareSpr (x := .sprg5) hstep (by decide) (by decide),
    step_softwareSpr (x := .sprg6) hstep (by decide) (by decide),
    step_softwareSpr (x := .sprg7) hstep (by decide) (by decide), fun hlr => ?_, fun hctr => ?_⟩
  · obtain ⟨i, hdec, hwriter⟩ := step_lr hstep hlr
    simpa [hdec, Links] using hwriter
  · obtain ⟨i, hdec, hwriter⟩ := step_ctr hstep hctr
    simpa [hdec, Decrements] using hwriter

end Sys2Proof.Machine
end

section
/-! SUPPORT. The debug register port (10_state.md R38, R39): a read after a write, and what a write leaves alone. -/

namespace Sys2Proof.Machine

/-- The mapped indices of the port (10_state.md R39). -/
def DebugMapped (i : Nat) : Prop := i < 32 ∨ i = 96 ∨ i = 98 ∨ i = 99 ∨ i = 100 ∨ i = 101

theorem DebugMapped.lt_nRegs {i : Nat} (h : DebugMapped i) : i < nRegs := by
  unfold DebugMapped at h
  unfold nRegs
  omega

theorem State.regRead_of_lt (s : State) {i : Nat} (h : i < 32) : s.regRead i = s.readGpr (BitVec.ofNat 5 i) := by
  simp [State.regRead, h]

theorem State.regWrite_of_lt (s : State) {i : Nat} (v : Word) (h : i < 32) :
    s.regWrite i v = s.writeGpr (BitVec.ofNat 5 i) v := by
  simp [State.regWrite, h]

theorem State.regRead_toNat (s : State) (x : Reg) : s.regRead x.toNat = s.readGpr x := by
  rw [s.regRead_of_lt x.isLt, BitVec.ofNat_toNat, BitVec.setWidth_eq]

theorem State.regRead_unmapped (s : State) {i : Nat} (h : ¬ DebugMapped i) : s.regRead i = 0#32 := by
  simp only [DebugMapped, not_or] at h
  simp [State.regRead, h]

theorem State.regWrite_unmapped (s : State) {i : Nat} (v : Word) (h : ¬ DebugMapped i) : s.regWrite i v = s := by
  simp only [DebugMapped, not_or] at h
  simp [State.regWrite, h]

/-- The register number of an index below 32 determines the index. -/
theorem ofNat_index_inj {i j : Nat} (hi : i < 32) (hj : j < 32) : BitVec.ofNat 5 j = BitVec.ofNat 5 i ↔ j = i := by
  rw [← BitVec.toNat_inj, BitVec.toNat_ofNat, BitVec.toNat_ofNat, Nat.mod_eq_of_lt hi, Nat.mod_eq_of_lt hj]

/-- The port after a write to a mapped index: the written value there, every other index as before. -/
theorem State.regRead_regWrite (s : State) {i : Nat} (j : Nat) (v : Word) (hi : DebugMapped i) :
    (s.regWrite i v).regRead j = if j = i then v else s.regRead j := by
  rcases hi with hi | rfl | rfl | rfl | rfl | rfl
  · rw [s.regWrite_of_lt v hi]
    by_cases hj : j < 32
    · simp only [State.regRead_of_lt _ hj, State.readGpr_writeGpr, ofNat_index_inj hi hj]
    · have hji : j ≠ i := by omega
      simp [State.regRead, hj, hji]
  · by_cases hj : j = 96 <;> simp [State.regRead, State.regWrite, hj]
  · by_cases hj : j = 98 <;> simp [State.regRead, State.regWrite, hj]
  · by_cases hj : j = 99 <;> simp [State.regRead, State.regWrite, hj]
  · by_cases hj : j = 100 <;> simp [State.regRead, State.regWrite, hj]
  · by_cases hj : j = 101 <;> simp [State.regRead, State.regWrite, hj]

/-- A write through the port leaves the software SPRs, the latch and memory. -/
theorem State.regWrite_frame (s : State) (i : Nat) (v : Word) :
    (s.regWrite i v).usprg0 = s.usprg0 ∧ (s.regWrite i v).sprg4 = s.sprg4 ∧ (s.regWrite i v).sprg5 = s.sprg5 ∧
      (s.regWrite i v).sprg6 = s.sprg6 ∧ (s.regWrite i v).sprg7 = s.sprg7 ∧ (s.regWrite i v).fatal = s.fatal ∧
      (s.regWrite i v).mem = s.mem := by
  unfold State.regWrite
  split_ifs <;> exact ⟨rfl, rfl, rfl, rfl, rfl, rfl, rfl⟩

/-- Settles O58: a write to a mapped index is read back there and nowhere else, a write to another index is none. -/
theorem debugRegisterPort : Obligations.DebugRegisterPort := by
  intro s i j v mapped
  have hunmapped : ¬ DebugMapped i → s.regRead i = 0#32 ∧ s.regWrite i v = s := fun h =>
    ⟨s.regRead_unmapped h, s.regWrite_unmapped v h⟩
  refine ⟨s.regRead_toNat, rfl, rfl, rfl, rfl, rfl, hunmapped, fun hi => ?readBack, fun hij => ?others,
    s.regWrite_frame i v, rfl, DebugMapped.lt_nRegs, fun hi => hunmapped fun h => absurd h.lt_nRegs (Nat.not_lt.mpr hi)⟩
  case readBack => rw [s.regRead_regWrite i v hi, if_pos rfl]
  case others =>
    by_cases hi : DebugMapped i
    · rw [s.regRead_regWrite j v hi, if_neg hij.symm]
    · rw [s.regWrite_unmapped v hi]

end Sys2Proof.Machine
end

section
/-! SUPPORT. The memory statements (20_memory.md R61 to R68, R76, R79): a wide access and its bytes, what a wide read
gives after a wide store to the same address, and the debug port's byte access. -/

namespace Sys2Proof.Machine

/-! ### A wide value and its bytes -/

/-- Byte `j` of a concatenation of four bytes, counted from the most significant. -/
theorem byteOf_append4 (b : Nat → Byte) {j : Nat} (hj : j < 4) : byteOf (b 0 ++ b 1 ++ b 2 ++ b 3) j = b j := by
  have h0 := (b 0).isLt
  have h1 := (b 1).isLt
  have h2 := (b 2).isLt
  have h3 := (b 3).isLt
  apply BitVec.eq_of_toNat_eq
  rw [byteOf_eq _ _ hj, toNat_append4, BitVec.toNat_ofNat]
  interval_cases j <;> omega

/-- Two consecutive bytes of a word are a halfword of its value. -/
theorem byteOf_append_byteOf (v : Word) {j : Nat} (hj : j + 1 < 4) :
    byteOf v j ++ byteOf v (j + 1) = BitVec.ofNat 16 (v.toNat / 256 ^ (2 - j)) := by
  have hdiv : v.toNat / 256 ^ (3 - j) = v.toNat / 256 ^ (2 - j) / 256 := by
    rw [Nat.div_div_eq_div_mul, ← Nat.pow_succ, show (2 - j).succ = 3 - j by omega]
  apply BitVec.eq_of_toNat_eq
  rw [BitVec.toNat_append, Nat.shiftLeft_eq, Nat.mul_comm, ← Nat.two_pow_add_eq_or_of_lt (byteOf v (j + 1)).isLt,
    byteOf_eq v j (by omega), byteOf_eq v (j + 1) hj, show 3 - (j + 1) = 2 - j by omega, hdiv]
  simp only [BitVec.toNat_ofNat]
  omega

namespace Memory

variable {m : Memory} {a v : Word}

/-- The bytes of a word read byte-reversed (20_memory.md R68). -/
theorem byteOf_readWordRev (m : Memory) (a : Word) {j : Nat} (hj : j < 4) :
    byteOf (m.readWordRev a) j = m.readByte (a + BitVec.ofNat 32 (3 - j)) := by
  rw [← byteOf_append4 (fun i => m.readByte (a + BitVec.ofNat 32 (3 - i))) hj]
  simp [readWordRev]

theorem readHalf_of_bytes {j : Nat} (hj : j + 1 < 4) (h0 : m.readByte a = byteOf v j)
    (h1 : m.readByte (a + 1#32) = byteOf v (j + 1)) : m.readHalf a = BitVec.ofNat 16 (v.toNat / 256 ^ (2 - j)) := by
  rw [← byteOf_append_byteOf v hj, ← h0, ← h1]
  rfl

theorem readHalfRev_of_bytes {j : Nat} (hj : j + 1 < 4) (h0 : m.readByte a = byteOf v (j + 1))
    (h1 : m.readByte (a + 1#32) = byteOf v j) : m.readHalfRev a = BitVec.ofNat 16 (v.toNat / 256 ^ (2 - j)) := by
  rw [← byteOf_append_byteOf v hj, ← h0, ← h1]
  rfl

/-! ### Outside the implemented range -/

theorem implements_iff (m : Memory) (a : Word) :
    m.implements a = true ↔ m.base ≤ a.toNat ∧ a.toNat < m.base + m.size := by
  simp [implements]

/-- A byte write outside the implemented range is none (20_memory.md R66). -/
theorem writeByte_outside (m : Memory) {a : Word} (b : Byte) (h : m.implements a = false) : m.writeByte a b = m := by
  simp [writeByte, h]

/-! ### A wide read after a wide store to the same address -/

section
variable (v : Word) (h : ∀ x, InAccess a 4 x → m.implements x = true)
include h

theorem implements_offset {j : Nat} (hj : j < 4) : m.implements (a + BitVec.ofNat 32 j) = true := h _ ⟨j, hj, rfl⟩

theorem readByte_stored_writeWord {j : Nat} (hj : j < 4) :
    (m.writeWord a v).readByte (a + BitVec.ofNat 32 j) = byteOf v j :=
  m.readByte_writeWord_in a v j hj (implements_offset h hj)

theorem readByte_stored_writeWordRev {j : Nat} (hj : j < 4) :
    (m.writeWordRev a v).readByte (a + BitVec.ofNat 32 j) = byteOf v (3 - j) :=
  m.readByte_writeWordRev_in a v j hj (implements_offset h hj)

theorem readByte_stored_writeHalf {j : Nat} (hj : j < 2) :
    (m.writeHalf a v).readByte (a + BitVec.ofNat 32 j) = byteOf v (2 + j) :=
  m.readByte_writeHalf_in a v j hj (implements_offset h (by omega))

theorem readByte_stored_writeHalfRev {j : Nat} (hj : j < 2) :
    (m.writeHalfRev a v).readByte (a + BitVec.ofNat 32 j) = byteOf v (3 - j) :=
  m.readByte_writeHalfRev_in a v j hj (implements_offset h (by omega))

theorem readWord_writeWord : (m.writeWord a v).readWord a = v :=
  eq_of_byteOf_eq fun j hj => by rw [byteOf_readWord _ _ _ hj, readByte_stored_writeWord v h hj]

/-- Reversed twice is the word itself: byte `j` is read from offset `3 - j`, where the store put byte `3 - (3 - j)`. -/
theorem readWordRev_writeWordRev : (m.writeWordRev a v).readWordRev a = v :=
  eq_of_byteOf_eq fun j hj => by
    rw [byteOf_readWordRev _ _ hj, readByte_stored_writeWordRev v h (by omega), show 3 - (3 - j) = j by omega]

/-- Reversing the read and reversing the store are the same swap: byte `j` of both sides is byte `3 - j` of `v`. -/
theorem readWordRev_writeWord : (m.writeWord a v).readWordRev a = (m.writeWordRev a v).readWord a :=
  eq_of_byteOf_eq fun j hj => by
    rw [byteOf_readWordRev _ _ hj, readByte_stored_writeWord v h (by omega), byteOf_readWord _ _ _ hj,
      readByte_stored_writeWordRev v h hj]

theorem readHalf_writeWord_high : (m.writeWord a v).readHalf a = BitVec.ofNat 16 (v.toNat / 65536) :=
  readHalf_of_bytes (j := 0) (by decide) (by simpa using readByte_stored_writeWord v h (j := 0) (by decide))
    (readByte_stored_writeWord v h (j := 1) (by decide))

theorem readHalf_writeWord_low : (m.writeWord a v).readHalf (a + 2#32) = BitVec.ofNat 16 v.toNat := by
  have hthree : a + 2#32 + 1#32 = a + BitVec.ofNat 32 3 := BitVec.add_assoc a 2#32 1#32
  simpa using readHalf_of_bytes (j := 2) (by decide) (readByte_stored_writeWord v h (by decide))
    (hthree ▸ readByte_stored_writeWord v h (by decide))

theorem readHalf_writeHalf : (m.writeHalf a v).readHalf a = BitVec.ofNat 16 v.toNat := by
  simpa using readHalf_of_bytes (j := 2) (by decide)
    (by simpa using readByte_stored_writeHalf v h (j := 0) (by decide)) (readByte_stored_writeHalf v h (by decide))

theorem readHalfRev_writeHalfRev : (m.writeHalfRev a v).readHalfRev a = BitVec.ofNat 16 v.toNat := by
  simpa using readHalfRev_of_bytes (j := 2) (by decide)
    (by simpa using readByte_stored_writeHalfRev v h (j := 0) (by decide))
    (readByte_stored_writeHalfRev v h (by decide))

end

end Memory

/-! ### The statements -/

/-- Settles O48: the read after a write is `Memory.readByte_writeByte`, the range is the test of `implements`. -/
theorem byteWriteThenRead : Obligations.ByteWriteThenRead := fun m a x b =>
  ⟨m.readByte_writeByte a x b, m.implements_iff a, fun h => ⟨m.readByte_outside a h, m.writeByte_outside b h⟩⟩

/-- Settles O49: every stored byte is a byte of `v`, and every wide read is put together from such bytes. -/
theorem mixedWidthAccesses : Obligations.MixedWidthAccesses := by
  intro m a v h
  refine ⟨Memory.readWord_writeWord v h, fun j hj => ?bytes, Memory.readHalf_writeWord_high v h,
    Memory.readHalf_writeWord_low v h, Memory.readWordRev_writeWordRev v h, Memory.readWordRev_writeWord v h,
    fun j hj => ?bytesRev, Memory.readHalf_writeHalf v h, Memory.readHalfRev_writeHalfRev v h, ?low, ?high⟩
  case bytes => rw [Memory.readByte_stored_writeWord v h hj, byteOf_eq v j hj]
  case bytesRev =>
    rw [Memory.readByte_stored_writeWordRev v h hj, byteOf_eq v (3 - j) (by omega), show 3 - (3 - j) = j by omega]
  case low => simpa [byteOf_eq] using Memory.readByte_stored_writeHalfRev v h (j := 0) (by decide)
  case high => simpa [byteOf_eq] using Memory.readByte_stored_writeHalfRev v h (j := 1) (by decide)

/-- Settles O19: after the store `pc` is the address stored to, and a word read there is the stored word. -/
theorem storedWordIsFetchedNext : Obligations.StoredWordIsFetchedNext := by
  intro s rS rA d hea himp
  obtain ⟨t, hexec, hmem, hframe⟩ := storePlain_effect s _ _ (MemKept.of_word s (s.eaD rA d) (s.readGpr rS))
  have hpc : t.pc = s.pc + 4#32 := hframe.pc
  refine ⟨t, hexec, hpc, ?_⟩
  rw [State.fetch, hmem, hpc, hea]
  exact Memory.readWord_writeWord _ himp

/-- Settles O59: the port's byte access is the memory's own, and the host's return writes `pc` alone. -/
theorem debugMemoryAndReturn : Obligations.DebugMemoryAndReturn := fun s a x b =>
  ⟨rfl, s.mem.readByte_writeByte a x b, rfl, s.mem.writeByte_wf a b, rfl⟩

end Sys2Proof.Machine
end

section
/-! SUPPORT. The decode table (30_encoding.md R119 to R121): no word has two rows, what the decoder accepts is
well-formed, and what no row reads is rejected by its name. -/

namespace Sys2Proof

/-! ### The rows of one word -/

theorem DecodeRow.matches_iff (r : DecodeRow) (w : Word) : r.matches w = true ↔ w &&& r.mask = r.pattern := by
  simp [DecodeRow.matches]

/-- Two rows that demand different values of the bits both look at. -/
def DecodeRow.Separated (a b : DecodeRow) : Prop := a.pattern &&& b.mask ≠ b.pattern &&& a.mask

/-- A word of both rows would have the same bits under the two masks together. -/
theorem DecodeRow.Separated.not_both {a b : DecodeRow} (h : a.Separated b) (w : Word) :
    ¬ (a.matches w = true ∧ b.matches w = true) := by
  rintro ⟨ha, hb⟩
  refine h ?_
  rw [← (a.matches_iff w).mp ha, ← (b.matches_iff w).mp hb, BitVec.and_assoc, BitVec.and_assoc,
    BitVec.and_comm a.mask]

theorem decodeTable_pairwise_separated : decodeTable.Pairwise DecodeRow.Separated := by
  unfold DecodeRow.Separated
  decide +kernel

theorem decodeTable_pairwise (w : Word) :
    decodeTable.Pairwise fun a b => ¬ (a.matches w = true ∧ b.matches w = true) :=
  decodeTable_pairwise_separated.imp fun h => h.not_both w

/-- Settles O2: any two rows of the table are separated, so the order of two positions does not matter. -/
theorem decodeTableUnambiguous : Obligations.DecodeTableUnambiguous := by
  refine ⟨rfl, fun j k w hjk => ?_⟩
  have hpair := List.pairwise_iff_getElem.mp (decodeTable_pairwise w)
  rcases Nat.lt_or_gt_of_ne (Fin.val_ne_of_ne hjk) with h | h
  · exact hpair j k j.isLt k.isLt h
  · exact fun hboth => hpair k j k.isLt j.isLt h hboth.symm

/-! ### What the decoder accepts -/

theorem byteCountOf_ok (nb : BitVec 5) : stringCountOk (byteCountOf nb) = true := by
  revert nb
  decide

theorem Field.byteCount_ok (w : Word) : stringCountOk (Field.byteCount w) = true := byteCountOf_ok _

theorem Field.sprNumber_ok (w : Word) : sprNumberOk (Field.sprNumber w) = true :=
  decide_eq_true (swapSpr (Field.spr w)).isLt

/-- Only `lswi`, `stswi`, `mfspr` and `mtspr` have an operand that well-formedness restricts. -/
theorem build_wf : ∀ row ∈ decodeTable, ∀ w, (row.build w).wf = true := by
  simp only [decodeTable, List.forall_mem_append]
  refine ⟨⟨⟨⟨⟨⟨⟨⟨⟨?_, ?_⟩, ?_⟩, ?_⟩, ?_⟩, ?_⟩, ?_⟩, ?load⟩, ?store⟩, ?moveSystem⟩
  case load => -- `lswi` is row 20 of its family
    intro row hrow w
    fin_cases hrow
    pick_goal 20
    · exact Field.byteCount_ok w
    all_goals rfl
  case store => -- `stswi` is row 16 of its family
    intro row hrow w
    fin_cases hrow
    pick_goal 16
    · exact Field.byteCount_ok w
    all_goals rfl
  case moveSystem => -- `mfspr` and `mtspr` are the first two rows of their family
    intro row hrow w
    fin_cases hrow
    · exact Field.sprNumber_ok w
    · exact Field.sprNumber_ok w
    all_goals rfl
  all_goals
    intro row hrow w
    fin_cases hrow <;> rfl

/-- Settles O3: the instruction is what some row builds. -/
theorem decodedInstructionWellFormed : Obligations.DecodedInstructionWellFormed := by
  intro w i h
  obtain ⟨row, hrow, -, rfl⟩ := row_of_decodeWord h
  exact build_wf row hrow w

/-! ### What the decoder rejects -/

theorem decodeWord_of_no_row {w : Word} (h : ∀ row ∈ decodeTable, row.matches w ≠ true) :
    decodeWord w = .error (rejectReason w) := by
  unfold decodeWord
  rw [List.find?_eq_none.mpr h]

theorem Field.opcd_and (w m : Word) : Field.opcd (w &&& m) = Field.opcd w &&& Field.opcd m := BitVec.extractLsb'_and

theorem Field.xo10_and (w m : Word) : Field.xo10 (w &&& m) = Field.xo10 w &&& Field.xo10 m := BitVec.extractLsb'_and

/-- Every mask has all bits of the primary opcode. -/
theorem DecodeRow.opcd_of_matches {row : DecodeRow} {w : Word} (hrow : row ∈ decodeTable) (h : row.matches w = true) :
    Field.opcd w = Field.opcd row.pattern := by
  have hmask : ∀ row ∈ decodeTable, Field.opcd row.mask = BitVec.allOnes 6 := by decide +kernel
  rw [← (row.matches_iff w).mp h, Field.opcd_and, hmask row hrow, BitVec.and_allOnes]

theorem DecodeRow.xo10_of_matches {row : DecodeRow} {w : Word} (h : row.matches w = true) :
    Field.xo10 w &&& Field.xo10 row.mask = Field.xo10 row.pattern := by
  rw [← (row.matches_iff w).mp h, Field.xo10_and]

/-- The extended opcodes of the words a row reads: one, or two where the row ignores the first bit, as `mulhw` and
`mulhwu` do (30_encoding.md R123). -/
def DecodeRow.extendedOpcodes (row : DecodeRow) : List Nat :=
  if Field.xo10 row.mask = 511#10 then [(Field.xo10 row.pattern).toNat, (Field.xo10 row.pattern).toNat + 512]
  else [(Field.xo10 row.pattern).toNat]

/-- A ten-bit number of which nine bits are known is one of two. -/
theorem toNat_eq_of_and_511 {x p : BitVec 10} (h : x &&& 511#10 = p) :
    x.toNat = p.toNat ∨ x.toNat = p.toNat + 512 := by
  have hmod : x.toNat % 512 = p.toNat := by
    rw [← h, BitVec.toNat_and]
    exact (Nat.and_two_pow_sub_one_eq_mod x.toNat 9).symm
  omega

/-- Under primary opcodes 19 and 31 every mask has the ten bits of the extended opcode, or all but the first. -/
theorem DecodeRow.xo10_mem_extendedOpcodes {row : DecodeRow} {w : Word} (hrow : row ∈ decodeTable)
    (hop : Field.opcd w = 19#6 ∨ Field.opcd w = 31#6) (h : row.matches w = true) :
    (Field.xo10 w).toNat ∈ row.extendedOpcodes := by
  have hmask : ∀ row ∈ decodeTable, Field.opcd row.pattern = 19#6 ∨ Field.opcd row.pattern = 31#6 →
      Field.xo10 row.mask = 511#10 ∨ Field.xo10 row.mask = BitVec.allOnes 10 := by decide +kernel
  have hxo := DecodeRow.xo10_of_matches h
  rw [DecodeRow.opcd_of_matches hrow h] at hop
  unfold DecodeRow.extendedOpcodes
  rcases hmask row hrow hop with h511 | hall
  · rw [h511] at hxo
    rw [if_pos h511]
    simpa using toNat_eq_of_and_511 hxo
  · rw [hall, BitVec.and_allOnes] at hxo
    rw [hall, if_neg (by decide), hxo]
    exact List.mem_singleton_self _

/-- A word whose primary opcode the table does not have is read by no row. -/
theorem decodeWord_of_opcd {w : Word} (h : ∀ row ∈ decodeTable, Field.opcd row.pattern ≠ Field.opcd w) :
    decodeWord w = .error (rejectReason w) :=
  decodeWord_of_no_row fun row hrow hm => h row hrow (DecodeRow.opcd_of_matches hrow hm).symm

/-- A word of primary opcode 19 or 31 whose extended opcode the table does not have is read by no row. -/
theorem decodeWord_of_xo10 {w : Word} {op : BitVec 6} {xos : List Nat} (hop : Field.opcd w = op)
    (hxo : (Field.xo10 w).toNat ∉ xos) (h1931 : op = 19#6 ∨ op = 31#6)
    (htable : ∀ row ∈ decodeTable, Field.opcd row.pattern = op → ∀ n ∈ row.extendedOpcodes, n ∈ xos) :
    decodeWord w = .error (.extendedOpcode op (Field.xo10 w)) := by
  subst hop
  rw [decodeWord_of_no_row fun row hrow hm => hxo (htable row hrow (DecodeRow.opcd_of_matches hrow hm).symm _
    (DecodeRow.xo10_mem_extendedOpcodes hrow h1931 hm))]
  rcases h1931 with h | h <;> simp [rejectReason, h]

/-- Settles O4: each list of the statement is held against the table's own opcodes, and a row of primary opcode 17
demands bit 1. -/
theorem undecodedWordsRejectedByName : Obligations.UndecodedWordsRejectedByName := by
  intro w
  refine ⟨fun hop => ?primary, fun hop hbit => ?sc, fun hop hxo => decodeWord_of_xo10 hop hxo (.inl rfl) ?xl,
    fun hop hxo => decodeWord_of_xo10 hop hxo (.inr rfl) ?x⟩
  case primary =>
    have htable : ∀ row ∈ decodeTable, ¬ (Field.opcd row.pattern ∈
        [0#6, 1#6, 2#6, 3#6, 4#6, 5#6, 6#6, 9#6, 22#6, 30#6] ∨ 48 ≤ (Field.opcd row.pattern).toNat) := by
      decide +kernel
    rw [decodeWord_of_opcd fun row hrow e => htable row hrow (by rwa [e]), rejectReason, if_neg, if_neg]
    · rintro (e | e) <;> exact absurd (e ▸ hop) (by decide)
    · exact fun e => absurd (e ▸ hop) (by decide)
  case sc =>
    have htable : ∀ row ∈ decodeTable, Field.opcd row.pattern = 17#6 → row.pattern.getLsbD 1 = true := by
      decide +kernel
    rw [decodeWord_of_no_row, rejectReason, if_pos hop]
    intro row hrow hm
    have hone := htable row hrow ((DecodeRow.opcd_of_matches hrow hm).symm.trans hop)
    rw [← (row.matches_iff w).mp hm, BitVec.getLsbD_and, hbit] at hone
    simp at hone
  case xl => decide +kernel
  case x => decide +kernel

/-- Settles O6: each word is read by running the decoder. -/
theorem sampleWordsDecode : Obligations.SampleWordsDecode := by
  refine ⟨?_, ?_, ?_, ?_, ?_, ?_, ?_, ?_, ?_, ?_, ?_, ?_, ?_⟩ <;> rfl

end Sys2Proof
end

section
/-! SUPPORT. Decoding after encoding (30_encoding.md R91 to R107, R119): the operands read back from each format, the
bits each format leaves under a row's mask, and the row of every instruction. -/

namespace Sys2Proof

/-! ### The operands in each format -/

/-- A field of a word, from the word as a number. -/
theorem slice_eq {w : Word} {lo n : Nat} {x : BitVec n} (h : w.toNat / 2 ^ lo % 2 ^ n = x.toNat) :
    w.extractLsb' lo n = x :=
  BitVec.eq_of_toNat_eq ((slice_toNat w lo n).trans h)

@[simp] theorem formI_fields (li : BitVec 24) (aa lk : BitVec 1) :
    Field.li (formI li aa lk) = li :=
  slice_eq (by rw [formI_toNat]; omega)

@[simp] theorem formB_fields (bo : BitVec 5) (bi : CrBit) (bd : BitVec 14) (aa lk : BitVec 1) :
    Field.rD (formB bo bi bd aa lk) = bo ∧
      Field.rA (formB bo bi bd aa lk) = bi ∧
      Field.bd (formB bo bi bd aa lk) = bd := by
  refine ⟨slice_eq ?_, slice_eq ?_, slice_eq ?_⟩ <;> rw [formB_toNat] <;> omega

@[simp] theorem formD_fields (opcd : BitVec 6) (r rA : Reg) (imm : BitVec 16) :
    Field.rD (formD opcd r rA imm) = r ∧
      Field.rA (formD opcd r rA imm) = rA ∧
      Field.imm16 (formD opcd r rA imm) = imm := by
  refine ⟨slice_eq ?_, slice_eq ?_, slice_eq ?_⟩ <;> rw [formD_toNat] <;> omega

@[simp] theorem formDCmp_fields (opcd : BitVec 6) (crfD : CrField) (l : BitVec 1) (rA : Reg) (imm : BitVec 16) :
    Field.crfD (formDCmp opcd crfD l rA imm) = crfD ∧
      Field.l (formDCmp opcd crfD l rA imm) = l ∧
      Field.rA (formDCmp opcd crfD l rA imm) = rA ∧
      Field.imm16 (formDCmp opcd crfD l rA imm) = imm := by
  refine ⟨slice_eq ?_, slice_eq ?_, slice_eq ?_, slice_eq ?_⟩ <;> rw [formDCmp_toNat] <;> omega

@[simp] theorem formX_fields (xo : BitVec 10) (r rA rB : BitVec 5) (rc : BitVec 1) :
    Field.rD (formX xo r rA rB rc) = r ∧
      Field.rA (formX xo r rA rB rc) = rA ∧
      Field.rB (formX xo r rA rB rc) = rB := by
  refine ⟨slice_eq ?_, slice_eq ?_, slice_eq ?_⟩ <;> rw [formX_toNat] <;> omega

@[simp] theorem formXCmp_fields (xo : BitVec 10) (crfD : CrField) (l : BitVec 1) (rA rB : Reg) :
    Field.crfD (formXCmp xo crfD l rA rB) = crfD ∧
      Field.l (formXCmp xo crfD l rA rB) = l ∧
      Field.rA (formXCmp xo crfD l rA rB) = rA ∧
      Field.rB (formXCmp xo crfD l rA rB) = rB := by
  refine ⟨slice_eq ?_, slice_eq ?_, slice_eq ?_, slice_eq ?_⟩ <;> rw [formXCmp_toNat] <;> omega

@[simp] theorem formXO_fields (xo : BitVec 9) (rD rA rB : Reg) (oe rc : BitVec 1) :
    Field.rD (formXO xo rD rA rB oe rc) = rD ∧
      Field.rA (formXO xo rD rA rB oe rc) = rA ∧
      Field.rB (formXO xo rD rA rB oe rc) = rB := by
  refine ⟨slice_eq ?_, slice_eq ?_, slice_eq ?_⟩ <;> rw [formXO_toNat] <;> omega

@[simp] theorem formXLb_fields (xo : BitVec 10) (bo : BitVec 5) (bi : CrBit) (lk : BitVec 1) :
    Field.rD (formXLb xo bo bi lk) = bo ∧
      Field.rA (formXLb xo bo bi lk) = bi := by
  refine ⟨slice_eq ?_, slice_eq ?_⟩ <;> rw [formXLb_toNat] <;> omega

@[simp] theorem formXLcr_fields (xo : BitVec 10) (crbD crbA crbB : CrBit) :
    Field.rD (formXLcr xo crbD crbA crbB) = crbD ∧
      Field.rA (formXLcr xo crbD crbA crbB) = crbA ∧
      Field.rB (formXLcr xo crbD crbA crbB) = crbB := by
  refine ⟨slice_eq ?_, slice_eq ?_, slice_eq ?_⟩ <;> rw [formXLcr_toNat] <;> omega

@[simp] theorem formMcrf_fields (crfD crfS : CrField) :
    Field.crfD (formMcrf crfD crfS) = crfD ∧
      Field.crfS (formMcrf crfD crfS) = crfS := by
  refine ⟨slice_eq ?_, slice_eq ?_⟩ <;> rw [formMcrf_toNat] <;> omega

@[simp] theorem formSpr_fields (xo : BitVec 10) (r : Reg) (n : Nat) :
    Field.rD (formSpr xo r n) = r ∧
      Field.spr (formSpr xo r n) = sprFieldOf n := by
  refine ⟨slice_eq ?_, slice_eq ?_⟩ <;> rw [formSpr_toNat] <;> omega

@[simp] theorem formMtcrf_fields (rS : Reg) (crm : BitVec 8) :
    Field.rD (formMtcrf rS crm) = rS ∧
      Field.crm (formMtcrf rS crm) = crm := by
  refine ⟨slice_eq ?_, slice_eq ?_⟩ <;> rw [formMtcrf_toNat] <;> omega

@[simp] theorem formMfcr_fields (rD : Reg) :
    Field.rD (formMfcr rD) = rD :=
  slice_eq (by rw [formMfcr_toNat]; omega)

@[simp] theorem formMcrxr_fields (crfD : CrField) :
    Field.crfD (formMcrxr crfD) = crfD :=
  slice_eq (by rw [formMcrxr_toNat]; omega)

@[simp] theorem formM_fields (opcd : BitVec 6) (rS rA sh mb me : BitVec 5) (rc : BitVec 1) :
    Field.rD (formM opcd rS rA sh mb me rc) = rS ∧
      Field.rA (formM opcd rS rA sh mb me rc) = rA ∧
      Field.rB (formM opcd rS rA sh mb me rc) = sh ∧
      Field.mb (formM opcd rS rA sh mb me rc) = mb ∧
      Field.me (formM opcd rS rA sh mb me rc) = me := by
  refine ⟨slice_eq ?_, slice_eq ?_, slice_eq ?_, slice_eq ?_, slice_eq ?_⟩ <;> rw [formM_toNat] <;> omega

/-! ### What a mask keeps of each format -/

theorem formI_and_FC000003 (li : BitVec 24) (aa lk : BitVec 1) :
    formI li aa lk &&& 0xFC000003#32 = formI 0#24 aa lk :=
  BitVec.eq_of_toNat_eq (by simp only [and_FC000003_toNat, formI_toNat, BitVec.toNat_ofNat]; omega)

theorem formB_and_FC000003 (bo : BitVec 5) (bi : CrBit) (bd : BitVec 14) (aa lk : BitVec 1) :
    formB bo bi bd aa lk &&& 0xFC000003#32 = formB 0#5 0#5 0#14 aa lk :=
  BitVec.eq_of_toNat_eq (by simp only [and_FC000003_toNat, formB_toNat, BitVec.toNat_ofNat]; omega)

theorem formD_and_FC000000 (opcd : BitVec 6) (r rA : Reg) (imm : BitVec 16) :
    formD opcd r rA imm &&& 0xFC000000#32 = formD opcd 0#5 0#5 0#16 :=
  BitVec.eq_of_toNat_eq (by simp only [and_FC000000_toNat, formD_toNat, BitVec.toNat_ofNat]; omega)

theorem formDCmp_and_FC000000 (opcd : BitVec 6) (crfD : CrField) (l : BitVec 1) (rA : Reg) (imm : BitVec 16) :
    formDCmp opcd crfD l rA imm &&& 0xFC000000#32 = formDCmp opcd 0#3 0#1 0#5 0#16 :=
  BitVec.eq_of_toNat_eq (by simp only [and_FC000000_toNat, formDCmp_toNat, BitVec.toNat_ofNat]; omega)

theorem formX_and_FC0007FF (xo : BitVec 10) (r rA rB : BitVec 5) (rc : BitVec 1) :
    formX xo r rA rB rc &&& 0xFC0007FF#32 = formX xo 0#5 0#5 0#5 rc :=
  BitVec.eq_of_toNat_eq (by simp only [and_FC0007FF_toNat, formX_toNat, BitVec.toNat_ofNat]; omega)

theorem formX_and_FC0007FE (xo : BitVec 10) (r rA rB : BitVec 5) (rc : BitVec 1) :
    formX xo r rA rB rc &&& 0xFC0007FE#32 = formX xo 0#5 0#5 0#5 0#1 :=
  BitVec.eq_of_toNat_eq (by simp only [and_FC0007FE_toNat, formX_toNat, BitVec.toNat_ofNat]; omega)

theorem formXCmp_and_FC0007FE (xo : BitVec 10) (crfD : CrField) (l : BitVec 1) (rA rB : Reg) :
    formXCmp xo crfD l rA rB &&& 0xFC0007FE#32 = formXCmp xo 0#3 0#1 0#5 0#5 :=
  BitVec.eq_of_toNat_eq (by simp only [and_FC0007FE_toNat, formXCmp_toNat, BitVec.toNat_ofNat]; omega)

theorem formXO_and_FC0007FF (xo : BitVec 9) (rD rA rB : Reg) (oe rc : BitVec 1) :
    formXO xo rD rA rB oe rc &&& 0xFC0007FF#32 = formXO xo 0#5 0#5 0#5 oe rc :=
  BitVec.eq_of_toNat_eq (by simp only [and_FC0007FF_toNat, formXO_toNat, BitVec.toNat_ofNat]; omega)

theorem formXO_and_FC0003FF (xo : BitVec 9) (rD rA rB : Reg) (oe rc : BitVec 1) :
    formXO xo rD rA rB oe rc &&& 0xFC0003FF#32 = formXO xo 0#5 0#5 0#5 0#1 rc :=
  BitVec.eq_of_toNat_eq (by simp only [and_FC0003FF_toNat, formXO_toNat, BitVec.toNat_ofNat]; omega)

theorem formXLb_and_FC0007FF (xo : BitVec 10) (bo : BitVec 5) (bi : CrBit) (lk : BitVec 1) :
    formXLb xo bo bi lk &&& 0xFC0007FF#32 = formXLb xo 0#5 0#5 lk :=
  BitVec.eq_of_toNat_eq (by simp only [and_FC0007FF_toNat, formXLb_toNat, BitVec.toNat_ofNat]; omega)

theorem formXLcr_and_FC0007FE (xo : BitVec 10) (crbD crbA crbB : CrBit) :
    formXLcr xo crbD crbA crbB &&& 0xFC0007FE#32 = formXLcr xo 0#5 0#5 0#5 :=
  BitVec.eq_of_toNat_eq (by simp only [and_FC0007FE_toNat, formXLcr_toNat, BitVec.toNat_ofNat]; omega)

theorem formMcrf_and_FC0007FE (crfD crfS : CrField) :
    formMcrf crfD crfS &&& 0xFC0007FE#32 = formMcrf 0#3 0#3 :=
  BitVec.eq_of_toNat_eq (by simp only [and_FC0007FE_toNat, formMcrf_toNat, BitVec.toNat_ofNat]; omega)

theorem sprFieldOf_zero : sprFieldOf 0 = 0#10 := by decide

theorem formSpr_and_FC0007FE (xo : BitVec 10) (r : Reg) (n : Nat) :
    formSpr xo r n &&& 0xFC0007FE#32 = formSpr xo 0#5 0 :=
  BitVec.eq_of_toNat_eq (by simp only [and_FC0007FE_toNat, formSpr_toNat, BitVec.toNat_ofNat, sprFieldOf_zero]; omega)

theorem formMtcrf_and_FC0007FE (rS : Reg) (crm : BitVec 8) :
    formMtcrf rS crm &&& 0xFC0007FE#32 = formMtcrf 0#5 0#8 :=
  BitVec.eq_of_toNat_eq (by simp only [and_FC0007FE_toNat, formMtcrf_toNat, BitVec.toNat_ofNat]; omega)

theorem formMfcr_and_FC0007FE (rD : Reg) :
    formMfcr rD &&& 0xFC0007FE#32 = formMfcr 0#5 :=
  BitVec.eq_of_toNat_eq (by simp only [and_FC0007FE_toNat, formMfcr_toNat, BitVec.toNat_ofNat]; omega)

theorem formMcrxr_and_FC0007FE (crfD : CrField) :
    formMcrxr crfD &&& 0xFC0007FE#32 = formMcrxr 0#3 :=
  BitVec.eq_of_toNat_eq (by simp only [and_FC0007FE_toNat, formMcrxr_toNat, BitVec.toNat_ofNat]; omega)

theorem formM_and_FC000001 (opcd : BitVec 6) (rS rA sh mb me : BitVec 5) (rc : BitVec 1) :
    formM opcd rS rA sh mb me rc &&& 0xFC000001#32 = formM opcd 0#5 0#5 0#5 0#5 0#5 rc :=
  BitVec.eq_of_toNat_eq (by simp only [and_FC000001_toNat, formM_toNat, BitVec.toNat_ofNat]; omega)

theorem formSC_and_FC000002 : formSC &&& 0xFC000002#32 = formSC := by decide

/-! ### The two operands held as numbers (R113, R115) -/

theorem swapSpr_toNat (f : BitVec 10) : (swapSpr f).toNat = f.toNat % 32 * 32 + f.toNat / 32 := by
  rw [swapSpr, toNat_append_eq]
  simp only [BitVec.extractLsb'_toNat, Nat.shiftRight_eq_div_pow]
  omega

theorem swapSpr_swapSpr (f : BitVec 10) : swapSpr (swapSpr f) = f := by
  apply BitVec.eq_of_toNat_eq
  rw [swapSpr_toNat, swapSpr_toNat]
  omega

theorem formSpr_sprNumber (xo : BitVec 10) (r : Reg) {n : Nat} (h : sprNumberOk n = true) :
    Field.sprNumber (formSpr xo r n) = n := by
  have hn : n < 1024 := of_decide_eq_true h
  rw [Field.sprNumber, (formSpr_fields xo r n).2, sprFieldOf, swapSpr_swapSpr, BitVec.toNat_ofNat]
  exact Nat.mod_eq_of_lt hn

theorem byteCountOf_field {n : Nat} (h : stringCountOk n = true) : byteCountOf (byteCountField n) = n := by
  have hn : 1 ≤ n ∧ n ≤ 32 := by simpa [stringCountOk] using h
  obtain ⟨h1, h32⟩ := hn
  interval_cases n <;> rfl

theorem formX_byteCount (xo : BitVec 10) (r rA : Reg) (rc : BitVec 1) {n : Nat} (h : stringCountOk n = true) :
    Field.byteCount (formX xo r rA (byteCountField n) rc) = n := by
  rw [Field.byteCount, (formX_fields xo r rA _ rc).2.2, byteCountOf_field h]

/-! ### The row of an instruction -/

/-- The constructors of `Instr` stand in the order of the table's rows. The row with the instruction's number reads its
word: the format leaves the row's match under the row's mask, whatever the operands. -/
theorem encode_matches (i : Instr) :
    ∃ row, decodeTable[i.ctorIdx]? = some row ∧ row.matches (encode i) = true := by
  cases i
  all_goals
    refine ⟨_, rfl, (DecodeRow.matches_iff _ _).mpr ?_⟩
    simp only [encode, formI_and_FC000003, formB_and_FC000003, formD_and_FC000000, formDCmp_and_FC000000,
      formX_and_FC0007FF, formX_and_FC0007FE, formXCmp_and_FC0007FE, formXO_and_FC0007FF, formXO_and_FC0003FF,
      formXLb_and_FC0007FF, formXLcr_and_FC0007FE, formMcrf_and_FC0007FE, formSpr_and_FC0007FE,
      formMtcrf_and_FC0007FE, formMfcr_and_FC0007FE, formMcrxr_and_FC0007FE, formM_and_FC000001, formSC_and_FC000002]
    rfl

/-- That row reads the operands back. Only the two operands held as numbers need the instruction to be well-formed. -/
theorem build_encode (i : Instr) (h : i.wf = true) :
    ∃ row, decodeTable[i.ctorIdx]? = some row ∧ row.build (encode i) = i := by
  cases i
  case lswi rD rA n => exact ⟨_, rfl, by simp [encode, formX_byteCount _ _ _ _ h]⟩
  case stswi rS rA n => exact ⟨_, rfl, by simp [encode, formX_byteCount _ _ _ _ h]⟩
  case mfspr rD n => exact ⟨_, rfl, by simp [encode, formSpr_sprNumber _ _ h]⟩
  case mtspr n rS => exact ⟨_, rfl, by simp [encode, formSpr_sprNumber _ _ h]⟩
  all_goals exact ⟨_, rfl, by simp [encode]⟩

/-- Settles O1: the row with the instruction's number reads its word, and no other row does. -/
theorem encodeDecodeRoundTrip : Obligations.EncodeDecodeRoundTrip := by
  intro i rest h
  have hdec : decodeWord (encode i) = .ok i := by
    obtain ⟨row, hrow, hreads⟩ := encode_matches i
    obtain ⟨row', hrow', hbuild⟩ := build_encode i h
    obtain rfl : row = row' := Option.some.inj (hrow.symm.trans hrow')
    rw [decodeWord_of_row _ row (decodeTable_pairwise _) (List.mem_of_getElem? hrow) hreads, hbuild]
  exact ⟨hdec, by rw [encodeBytes, decodeBytes_bytesOfWord, hdec]; rfl⟩

end Sys2Proof
end

section
/-! SUPPORT. Reserved bits (30_encoding.md R124): neither a row's mask nor its operand fields look at them. -/

namespace Sys2Proof

/-! ### Fields of a word with some bits cleared -/

theorem slice_and_of_full {w m : Word} {lo n : Nat} (h : m.extractLsb' lo n = BitVec.allOnes n) :
    (w &&& m).extractLsb' lo n = w.extractLsb' lo n := by
  rw [BitVec.extractLsb'_and, h, BitVec.and_allOnes]

theorem Field.rD_and_full {m : Word} (h : Field.rD m = BitVec.allOnes 5) (w : Word) :
    Field.rD (w &&& m) = Field.rD w :=
  slice_and_of_full h

theorem Field.rA_and_full {m : Word} (h : Field.rA m = BitVec.allOnes 5) (w : Word) :
    Field.rA (w &&& m) = Field.rA w :=
  slice_and_of_full h

theorem Field.rB_and_full {m : Word} (h : Field.rB m = BitVec.allOnes 5) (w : Word) :
    Field.rB (w &&& m) = Field.rB w :=
  slice_and_of_full h

theorem Field.imm16_and_full {m : Word} (h : Field.imm16 m = BitVec.allOnes 16) (w : Word) :
    Field.imm16 (w &&& m) = Field.imm16 w :=
  slice_and_of_full h

theorem Field.crfD_and_full {m : Word} (h : Field.crfD m = BitVec.allOnes 3) (w : Word) :
    Field.crfD (w &&& m) = Field.crfD w :=
  slice_and_of_full h

theorem Field.l_and_full {m : Word} (h : Field.l m = BitVec.allOnes 1) (w : Word) :
    Field.l (w &&& m) = Field.l w :=
  slice_and_of_full h

theorem Field.crfS_and_full {m : Word} (h : Field.crfS m = BitVec.allOnes 3) (w : Word) :
    Field.crfS (w &&& m) = Field.crfS w :=
  slice_and_of_full h

theorem Field.spr_and_full {m : Word} (h : Field.spr m = BitVec.allOnes 10) (w : Word) :
    Field.spr (w &&& m) = Field.spr w :=
  slice_and_of_full h

theorem Field.crm_and_full {m : Word} (h : Field.crm m = BitVec.allOnes 8) (w : Word) :
    Field.crm (w &&& m) = Field.crm w :=
  slice_and_of_full h

/-! ### Rows -/

/-- Neither the row's mask nor its operands look at the bits `res`. -/
def DecodeRow.Ignores (row : DecodeRow) (res : Word) : Prop :=
  row.mask &&& res = 0#32 ∧ ∀ w, row.build (w &&& ~~~res) = row.build w

/-- Words that agree outside `res` agree under a mask that has none of its bits. -/
theorem and_eq_and_of_and_not {m res w v : Word} (hm : m &&& res = 0#32) (h : w &&& ~~~res = v &&& ~~~res) :
    w &&& m = v &&& m := by
  have hsub : ~~~res &&& m = m := by
    apply BitVec.eq_of_getLsbD_eq
    intro k hk
    have hbit : (m &&& res).getLsbD k = false := by rw [hm, BitVec.getLsbD_zero]
    rw [BitVec.getLsbD_and] at hbit
    rw [BitVec.getLsbD_and, BitVec.getLsbD_not]
    cases hr : res.getLsbD k <;> simp_all
  rw [← hsub, ← BitVec.and_assoc, h, BitVec.and_assoc]

/-- Two words that differ in ignored bits alone are of the same row, which builds the same instruction of both. -/
theorem decodeWord_congr_of_ignores {row : DecodeRow} (hrow : row ∈ decodeTable) {res : Word} (hres : row.Ignores res)
    {w v : Word} (hw : w &&& row.mask = row.pattern) (hwv : w &&& ~~~res = v &&& ~~~res) :
    decodeWord w = decodeWord v := by
  obtain ⟨hmask, hbuild⟩ := hres
  have hv : v &&& row.mask = row.pattern := by rw [← and_eq_and_of_and_not hmask hwv, hw]
  have hdec : ∀ x, x &&& row.mask = row.pattern → decodeWord x = .ok (row.build x) := fun x hx =>
    decodeWord_of_row x row (decodeTable_pairwise x) hrow ((row.matches_iff x).mpr hx)
  rw [hdec w hw, hdec v hv, ← hbuild w, hwv, hbuild v]

/-- The table's row of a mask and a match. -/
def rowOf (mask pattern : Word) : Option DecodeRow :=
  decodeTable.find? fun row => row.mask == mask && row.pattern == pattern

theorem decodeWord_congr_of_rowOf {mask pattern res : Word} {row : DecodeRow} (hrow : rowOf mask pattern = some row)
    (hres : row.Ignores res) :
    ∀ w v : Word, w &&& mask = pattern → w &&& ~~~res = v &&& ~~~res → decodeWord w = decodeWord v := by
  intro w v hw hwv
  have hkey : row.mask = mask ∧ row.pattern = pattern := by simpa using List.find?_some hrow
  obtain ⟨rfl, rfl⟩ := hkey
  exact decodeWord_congr_of_ignores (List.mem_of_find?_eq_some hrow) hres hw hwv

/-- Settles O5: each entry of the list is the mask and match of a row, and every field the row's operands read lies
outside the entry's reserved bits. -/
theorem reservedBitsIgnored : Obligations.ReservedBitsIgnored := by
  intro entry hentry
  fin_cases hentry
  all_goals
    refine decodeWord_congr_of_rowOf (row := ⟨_, _, _, _⟩) rfl ⟨by decide, fun w => ?_⟩
    simp (disch := decide) only [Field.byteCount, Field.sprNumber, Field.rD_and_full, Field.rA_and_full,
      Field.rB_and_full, Field.imm16_and_full, Field.crfD_and_full, Field.l_and_full, Field.crfS_and_full,
      Field.spr_and_full, Field.crm_and_full]

end Sys2Proof
end

section
/-! SUPPORT. The step on a word that no row reads (30_encoding.md R120; 20_memory.md R66). -/

namespace Sys2Proof
namespace Machine

theorem State.fetch_outside {s : State} (h0 : s.mem.implements s.pc = false)
    (h1 : s.mem.implements (s.pc + 1#32) = false) (h2 : s.mem.implements (s.pc + 2#32) = false)
    (h3 : s.mem.implements (s.pc + 3#32) = false) : s.fetch = 0#32 := by
  rw [State.fetch_eq, s.mem.readByte_outside _ h0, s.mem.readByte_outside _ h1, s.mem.readByte_outside _ h2,
    s.mem.readByte_outside _ h3]
  rfl

/-- Of the four cases of a step, a clear latch, an aligned `pc` and a rejected word leave only the third. -/
theorem step_eq_fatalStop {s : State} {e : DecodeReject} (hrun : s.fatal = none) (hpc : s.pcAligned = true)
    (hdec : decodeWord s.fetch = .error e) : step s = .next (s.fatalStop .undecoded) := by
  rcases step_cases s with ⟨c, hhalt, -⟩ | ⟨-, hmis, -⟩ | ⟨-, -, -, -, hstep⟩ | ⟨j, -, -, hj, -⟩
  · simp [hrun] at hhalt
  · simp [hpc] at hmis
  · exact hstep
  · simp [hdec] at hj

/-- Settles O9: the word 0 of an unimplemented fetch has primary opcode 0, which the table does not have. -/
theorem undecodedWordHalts : Obligations.UndecodedWordHalts := by
  intro s hrun hpc hword
  have hdec : ∃ e, decodeWord s.fetch = .error e := by
    rcases hword with hbad | ⟨h0, h1, h2, h3⟩
    · exact hbad
    · rw [State.fetch_outside h0 h1 h2 h3]
      exact ⟨_, (undecodedWordsRejectedByName 0#32).1 (.inl (by decide))⟩
  obtain ⟨e, he⟩ := hdec
  exact ⟨_, step_eq_fatalStop hrun (s.pcAligned_iff.mpr hpc) he, rfl⟩

end Machine
end Sys2Proof
end

section
/-! SUPPORT. The word helpers of 40_helpers.md: the rotation (R136) and the mask (R137), bit by bit. -/

namespace Sys2Proof.Machine

/-! ### `ROTL32` (40_helpers.md R136) -/

theorem rotl32_getLsbD_add (v : Word) (n : BitVec 5) {i : Nat} (hi : i < 32) :
    (rotl32 v n).getLsbD ((i + n.toNat) % 32) = v.getLsbD i := by
  have hn := n.isLt
  rw [rotl32_getLsbD _ _ _ (Nat.mod_lt _ (by decide))]
  congr 1
  omega

@[simp] theorem rotl32_zero (v : Word) : rotl32 v 0#5 = v := by
  apply BitVec.eq_of_getLsbD_eq
  intro k hk
  simpa [Nat.mod_eq_of_lt hk] using rotl32_getLsbD_add v 0#5 hk

/-- The amounts of the two rotations add up to a multiple of 32. -/
theorem rotl32_rotl32_neg (v : Word) (n : BitVec 5) : rotl32 (rotl32 v n) (0#5 - n) = v := by
  have hn := n.isLt
  have hneg : (0#5 - n).toNat = (32 - n.toNat) % 32 := by simp
  apply BitVec.eq_of_getLsbD_eq
  intro k hk
  have hback : (k + (32 - (32 - n.toNat) % 32)) % 32 = (k + n.toNat) % 32 := by omega
  rw [rotl32_getLsbD _ _ _ hk, hneg, hback, rotl32_getLsbD_add v n hk]

/-- Settles O37: bit `k` of the rotated word is the bit `n` places below, counted modulo 32. -/
theorem rotateLeft : Obligations.RotateLeft := fun v n =>
  ⟨fun _ hi => rotl32_getLsbD_add v n hi, rotl32_zero v, rotl32_rotl32_neg v n⟩

/-! ### `MASK` (40_helpers.md R137) -/

theorem mask_getLsbD_msbFirst (start stop : BitVec 5) {i : Nat} (hi : i < 32) :
    (mask start stop).getLsbD (31 - i) =
      if start.toNat ≤ stop.toNat then decide (start.toNat ≤ i ∧ i ≤ stop.toNat)
      else decide (start.toNat ≤ i ∨ i ≤ stop.toNat) := by
  rw [mask_getLsbD _ _ _ (by omega), Nat.sub_sub_self (by omega)]

/-- A wrapping mask leaves out the bits strictly between its end and its start. -/
theorem mask_eq_not_inner {start stop : BitVec 5} (h : stop.toNat + 1 < start.toNat) :
    mask start stop = ~~~mask (stop + 1#5) (start - 1#5) := by
  have hstart := start.isLt
  have hfrom : (stop + 1#5).toNat = stop.toNat + 1 := by rw [BitVec.toNat_add, BitVec.toNat_ofNat]; omega
  have hto : (start - 1#5).toNat = start.toNat - 1 := by rw [BitVec.toNat_sub, BitVec.toNat_ofNat]; omega
  apply BitVec.eq_of_getLsbD_eq
  intro k hk
  rw [BitVec.getLsbD_not, mask_getLsbD _ _ _ hk, mask_getLsbD _ _ _ hk, hfrom, hto, if_neg (by omega),
    if_pos (by omega), decide_eq_true hk, Bool.true_and, ← decide_not, decide_eq_decide]
  omega

/-- A mask that starts right after its end leaves out no bit. -/
theorem mask_eq_ones {start stop : BitVec 5} (h : start.toNat = stop.toNat + 1) : mask start stop = 0xFFFFFFFF#32 := by
  apply BitVec.eq_of_getLsbD_eq
  intro k hk
  rw [mask_getLsbD _ _ _ hk, if_neg (by omega), getLsbD_ones, decide_eq_decide]
  omega

theorem mask_getLsbD_start (start stop : BitVec 5) : (mask start stop).getLsbD (31 - start.toNat) = true := by
  rw [mask_getLsbD_msbFirst _ _ start.isLt]
  split
  case isTrue h => simp [h]
  case isFalse => simp

theorem mask_ne_zero (start stop : BitVec 5) : mask start stop ≠ 0#32 := fun h => by
  simpa [h] using mask_getLsbD_start start stop

/-- Settles O36: every clause is the bit-by-bit reading of the mask; the start bit is always in it. -/
theorem maskGenerator : Obligations.MaskGenerator :=
  ⟨fun start stop => ⟨fun _ hi => mask_getLsbD_msbFirst start stop hi, mask_eq_not_inner, mask_eq_ones,
    mask_ne_zero start stop⟩, by decide⟩

end Sys2Proof.Machine
end

section
/-! SUPPORT. The flag helpers of 40_helpers.md: the carry and overflow detectors (R131, R132), CR0UPDATE (R130) and the
CR accessors (R141). -/

namespace Sys2Proof.Machine

/-! ### The carry and overflow detectors (40_helpers.md R131, R132) -/

theorem State.setCa_ca (s : State) (b : Bool) : (s.setCa b).ca = b := s.setCa_xer_getLsbD b 29 (by decide)

theorem State.recordOverflow_ov (s : State) (b : Bool) : (s.recordOverflow b).ov = b :=
  s.recordOverflow_xer_getLsbD b 30 (by decide)

theorem State.recordOverflow_so (s : State) (b : Bool) : (s.recordOverflow b).so = (s.so || b) :=
  s.recordOverflow_xer_getLsbD b 31 (by decide)

/-- A subtraction carries exactly when it does not borrow. -/
theorem addCarries_not_one (a b : Word) : addCarries (~~~a) b 1#32 = decide (a.toNat ≤ b.toNat) := by
  have := a.isLt
  rw [addCarries_eq, toNat_not, word_one_toNat, decide_eq_decide]
  omega

/-- The addends of a subtraction sum to the exact signed difference. -/
theorem toInt_not_add_one (a b : Word) : (~~~a).toInt + b.toInt + (1#32).toInt = b.toInt - a.toInt := by
  rw [toInt_not, word_one_toInt]
  omega

/-- Settles O38: CAADD is a write of its test to XER bit 29. -/
theorem carryDetector : Obligations.CarryDetector := by
  intro s s1 s2 s3
  refine ⟨⟨?carry, fun k hk hne => ?others, rfl⟩, ?subtract⟩
  case carry => rw [State.caAdd_eq, State.setCa_ca, addCarries, decide_eq_true_eq]
  case others => rw [State.caAdd_eq, State.setCa_xer_getLsbD _ _ _ hk, if_neg hne]
  case subtract => rw [State.caAdd_eq, State.setCa_ca, addCarries_not_one, decide_eq_true_eq]

/-- Settles O39: OVADD is the overflow record of its test, which `addOverflows_eq` reads as a range test. -/
theorem overflowDetector : Obligations.OverflowDetector := by
  intro s s1 s2 s3 result t
  have hov : t.ov = addOverflows result s1 s2 s3 := s.recordOverflow_ov _
  refine ⟨?inexact, ?range, ?sticky, fun k hk => ?others, ?frame, ?subtract⟩
  case inexact => rw [hov, addOverflows, bne_iff_ne]
  case range => rw [hov, addOverflows_eq, decide_eq_true_eq]
  case sticky => rw [hov]; exact s.recordOverflow_so _
  case others =>
    refine (s.recordOverflow_xer_getLsbD _ k (by omega)).trans ?_
    rw [if_neg (by omega), if_neg (by omega)]
  case frame => rfl
  case subtract =>
    rw [State.ovAdd_eq, State.recordOverflow_ov, addOverflows_eq, decide_eq_true_eq, toInt_not_add_one]

/-! ### `CR0UPDATE` (40_helpers.md R130) -/

/-- Settles O40: the bits are those of `State.cr0Update_cr_getLsbD`; exactly one of the three is set because the order
of the integers is total. -/
theorem cr0Update : Obligations.Cr0Update := by
  intro s result t
  have hlt : t.cr.getLsbD 31 = decide (result.toInt < 0) := s.cr0Update_cr_getLsbD result 31 (by decide)
  have hgt : t.cr.getLsbD 30 = decide (0 < result.toInt) := s.cr0Update_cr_getLsbD result 30 (by decide)
  have heq : t.cr.getLsbD 29 = decide (result.toInt = 0) := s.cr0Update_cr_getLsbD result 29 (by decide)
  refine ⟨by rw [hlt, decide_eq_true_eq], by rw [hgt, decide_eq_true_eq],
    by rw [heq, decide_eq_true_eq, eq_zero_iff_toInt], s.cr0Update_cr_getLsbD result 28 (by decide), ?one,
    fun k hk => ?others, rfl⟩
  case one =>
    rw [hlt, hgt, heq]
    rcases Int.lt_trichotomy result.toInt 0 with h | h | h
    · simp [h, Int.lt_asymm h, Int.ne_of_lt h]
    · simp [h]
    · simp [h, Int.lt_asymm h, (Int.ne_of_lt h).symm]
  case others =>
    refine (s.cr0Update_cr_getLsbD result k (by omega)).trans ?_
    rw [if_neg (by omega), if_neg (by omega), if_neg (by omega), if_neg (by omega)]

/-! ### The CR accessors (40_helpers.md R141) -/

/-- Different fields have no bit in common. -/
theorem State.crField_writeCrField (s : State) (n m : CrField) (v : BitVec 4) :
    (s.writeCrField n v).crField m = if m = n then v else s.crField m := by
  have hn := n.isLt
  have hm := m.isLt
  apply BitVec.eq_of_getLsbD_eq
  intro k hk
  rw [State.crField_getLsbD _ _ _ hk, State.writeCrField_cr_getLsbD _ _ _ _ (by omega)]
  by_cases h : m = n
  · subst h
    rw [if_pos (by omega), if_pos rfl, Nat.add_sub_cancel_left]
  · have hne : m.toNat ≠ n.toNat := fun e => h (BitVec.eq_of_toNat_eq e)
    rw [if_neg (by omega), if_neg h, State.crField_getLsbD _ _ _ hk]

/-- Different bit numbers name different CR bits. -/
theorem State.crBit_writeCrBit (s : State) (i j : CrBit) (b : Bool) :
    (s.writeCrBit i b).crBit j = if j = i then b else s.crBit j := by
  have hi := i.isLt
  have hj := j.isLt
  have hiff : 31 - j.toNat = 31 - i.toNat ↔ j = i := by rw [← BitVec.toNat_inj]; omega
  rw [State.crBit_eq, State.writeCrBit_cr_getLsbD _ _ _ _ (by omega), State.crBit_eq]
  simp only [hiff]

/-- LT, GT, EQ and SO of a field are its bits 3, 2, 1 and 0. -/
theorem State.crBit_eq_crField (s : State) (i : CrBit) :
    s.crBit i = (s.crField (BitVec.ofNat 3 (i.toNat / 4))).getLsbD (3 - i.toNat % 4) := by
  have hi := i.isLt
  rw [State.crBit_eq, State.crField_getLsbD _ _ _ (by omega), BitVec.toNat_ofNat]
  congr 1
  omega

/-- Settles O41: a read after a write to the same and to another field or bit; a write is one of CR alone. -/
theorem crAccessors : Obligations.CrAccessors := fun s n m v i j b =>
  ⟨fun k hk => s.crField_getLsbD n k hk, s.crField_writeCrField n m v, rfl, s.crBit_eq i, s.crBit_writeCrBit i j b, rfl,
    s.crBit_eq_crField i⟩

end Sys2Proof.Machine
end

section
/-! SUPPORT. The branch condition (40_helpers.md R138) and the conditional branches (41_branch.md R154). -/

namespace Sys2Proof.Machine

section
variable {s : State} {bo : BitVec 5} {bi : CrBit}

/-! ### The table of the BO values -/

theorem branchCtr_of_decrement (c : Word) (h2 : bo.getLsbD 2 = false) : branchCtr c bo = c - 1#32 := by
  simp only [branchCtr_eq, h2, Bool.false_eq_true, if_false]

theorem branchCtr_of_keep (c : Word) (h2 : bo.getLsbD 2 = true) : branchCtr c bo = c := by
  rw [branchCtr_eq, if_pos h2]

/-- The CR part of a row that tests the CR bit for `b`. -/
theorem State.branchCondOk_of_test {b : Bool} (h4 : bo.getLsbD 4 = false) (h3 : bo.getLsbD 3 = b) :
    s.branchCondOk bo bi = true ↔ s.cr.getLsbD (31 - bi.toNat) = b := by
  rw [State.branchCondOk, h4, h3, State.crBit_eq, Bool.false_or, beq_iff_eq]

theorem State.branchCondOk_of_ignore (h4 : bo.getLsbD 4 = true) : s.branchCondOk bo bi = true := by
  rw [State.branchCondOk, h4, Bool.true_or]

/-- The CTR part of a row that branches on a nonzero CTR. -/
theorem State.branchTaken_of_nonzero (h2 : bo.getLsbD 2 = false) (h1 : bo.getLsbD 1 = false) :
    s.branchTaken bo bi = true ↔ branchCtr s.ctr bo ≠ 0#32 ∧ s.branchCondOk bo bi = true := by
  rw [State.branchTaken, branchCtrOk, h2, h1, Bool.false_or, Bool.xor_false, Bool.and_eq_true, bne_iff_ne]

/-- The CTR part of a row that branches on a zero CTR. -/
theorem State.branchTaken_of_zero (h2 : bo.getLsbD 2 = false) (h1 : bo.getLsbD 1 = true) :
    s.branchTaken bo bi = true ↔ branchCtr s.ctr bo = 0#32 ∧ s.branchCondOk bo bi = true := by
  rw [State.branchTaken, branchCtrOk, h2, h1, Bool.false_or, Bool.xor_true, Bool.and_eq_true, Bool.not_eq_true',
    bne_eq_false_iff_eq]

/-- The CTR part of a row that does not look at CTR. -/
theorem State.branchTaken_of_keep (h2 : bo.getLsbD 2 = true) :
    s.branchTaken bo bi = true ↔ s.branchCondOk bo bi = true := by
  rw [State.branchTaken, branchCtrOk, h2, Bool.true_or, Bool.true_and]

/-- A bit that all BO values of a row of the table share. -/
theorem getLsbD_of_mem_row {row : List Nat} (h : bo.toNat ∈ row) {k : Nat} {b : Bool}
    (hrow : ∀ n ∈ row, n.testBit k = b := by decide) : bo.getLsbD k = b :=
  hrow _ h

/-! ### The conditional branches -/

/-- The commit of a branch (41_branch.md R154), from a state that differs from the branch's own in LR and CTR only. -/
theorem commitBranch_effect {s0 : State} (he : s = { s0 with lr := s.lr, ctr := s.ctr }) (taken : Bool) (target : Word) :
    ∃ t, s.commitBranch taken target = .next t ∧ t.pc = (if taken then target else s0.pc + 4#32) ∧ t.lr = s.lr ∧
      t.ctr = s.ctr ∧ BranchFrame s0 t := by
  refine ⟨_, rfl, ?_, rfl, rfl, ?_⟩
  · rw [State.setPc_pc, State.nextPc_eq, he]
  · rw [he]
    exact ⟨fun _ _ => rfl, rfl, rfl, rfl, rfl, rfl, rfl, rfl, rfl, MemSame.of_eq rfl⟩

/-- The three conditional shapes differ in the target alone. -/
theorem completes_of_conditional {i : Instr} {target : Word} (lk : Bool)
    (h : exec i s = ((s.writeBackCtr bo).link lk).commitBranch (s.branchTaken bo bi) target) :
    Completes i s fun t => t.pc = (if s.branchTaken bo bi then target else s.pc + 4#32) ∧
      t.lr = (if lk then s.pc + 4#32 else s.lr) ∧ t.ctr = branchCtr s.ctr bo ∧ BranchFrame s t := by
  have he : (s.writeBackCtr bo).link lk =
      { s with lr := ((s.writeBackCtr bo).link lk).lr, ctr := ((s.writeBackCtr bo).link lk).ctr } := by
    cases lk <;> rfl
  have heffect := commitBranch_effect he (s.branchTaken bo bi) target
  rw [State.link_lr, State.link_ctr, State.writeBackCtr_pc, State.writeBackCtr_lr, State.writeBackCtr_ctr] at heffect
  rwa [Completes, h]

end

/-! ### The statements -/

/-- Settles O22: the BO values of a row share the bits that choose its CTR part and its CR part. -/
theorem branchConditionTable : Obligations.BranchConditionTable := by
  intro bo bi s newCtr crBit
  refine ⟨fun row => ⟨branchCtr_of_decrement _ (getLsbD_of_mem_row row), ?nonzeroFalse⟩,
    fun row => ⟨branchCtr_of_decrement _ (getLsbD_of_mem_row row), ?zeroFalse⟩,
    fun row => ⟨branchCtr_of_keep _ (getLsbD_of_mem_row row), ?crFalse⟩,
    fun row => ⟨branchCtr_of_decrement _ (getLsbD_of_mem_row row), ?nonzeroTrue⟩,
    fun row => ⟨branchCtr_of_decrement _ (getLsbD_of_mem_row row), ?zeroTrue⟩,
    fun row => ⟨branchCtr_of_keep _ (getLsbD_of_mem_row row), ?crTrue⟩,
    fun row => ⟨branchCtr_of_decrement _ (getLsbD_of_mem_row row), ?nonzero⟩,
    fun row => ⟨branchCtr_of_decrement _ (getLsbD_of_mem_row row), ?zero⟩,
    fun row => ⟨branchCtr_of_keep _ (getLsbD_of_mem_row row), ?always⟩⟩
  case nonzeroFalse | nonzeroTrue =>
    exact (State.branchTaken_of_nonzero (getLsbD_of_mem_row row) (getLsbD_of_mem_row row)).trans
      (and_congr_right fun _ => State.branchCondOk_of_test (getLsbD_of_mem_row row) (getLsbD_of_mem_row row))
  case zeroFalse | zeroTrue =>
    exact (State.branchTaken_of_zero (getLsbD_of_mem_row row) (getLsbD_of_mem_row row)).trans
      (and_congr_right fun _ => State.branchCondOk_of_test (getLsbD_of_mem_row row) (getLsbD_of_mem_row row))
  case crFalse | crTrue =>
    exact (State.branchTaken_of_keep (getLsbD_of_mem_row row)).trans
      (State.branchCondOk_of_test (getLsbD_of_mem_row row) (getLsbD_of_mem_row row))
  case nonzero =>
    rw [State.branchTaken_of_nonzero (getLsbD_of_mem_row row) (getLsbD_of_mem_row row),
      and_iff_left (State.branchCondOk_of_ignore (getLsbD_of_mem_row row))]
  case zero =>
    rw [State.branchTaken_of_zero (getLsbD_of_mem_row row) (getLsbD_of_mem_row row),
      and_iff_left (State.branchCondOk_of_ignore (getLsbD_of_mem_row row))]
  case always =>
    rw [State.branchTaken_of_keep (getLsbD_of_mem_row row), iff_true]
    exact State.branchCondOk_of_ignore (getLsbD_of_mem_row row)

/-- Settles O21: every one of the eight is a conditional shape, with its own target and link bit. -/
theorem conditionalBranchResults : Obligations.ConditionalBranchResults := by
  intro bo bi bd s ctr taken disp
  have hctr : branchCtr s.ctr bo = ctr := branchCtr_eq s.ctr bo
  have htaken : s.branchTaken bo bi = taken := by rw [State.branchTaken_eq, hctr]
  have hdisp : dispBD bd = disp := dispBD_eq bd
  rw [← htaken, ← hctr, ← hdisp, ← alignTarget_eq, ← alignTarget_eq]
  exact ⟨completes_of_conditional false rfl, completes_of_conditional false rfl, completes_of_conditional true rfl,
    completes_of_conditional true rfl, completes_of_conditional false rfl, completes_of_conditional true rfl,
    completes_of_conditional false rfl, completes_of_conditional true rfl⟩

end Sys2Proof.Machine
end

section
/-! SUPPORT. The unconditional branches (41_branch.md R151, R152, R156 to R159). -/

namespace Sys2Proof.Machine

/-- The four unconditional branches differ in the target's base and the link bit alone. -/
theorem completes_of_unconditional {i : Instr} {li : BitVec 24} {s : State} (absolute lk : Bool)
    (h : exec i s = branchAlways absolute lk li s) :
    Completes i s fun t => t.pc = s.dispTarget absolute (dispLI li) ∧ t.lr = (if lk then s.pc + 4#32 else s.lr) ∧
      t.ctr = s.ctr ∧ BranchFrame s t := by
  have he : s.link lk = { s with lr := (s.link lk).lr, ctr := (s.link lk).ctr } := by
    cases lk <;> rfl
  have heffect := commitBranch_effect he true (s.dispTarget absolute (dispLI li))
  rw [State.link_lr, State.link_ctr, if_pos rfl] at heffect
  rwa [Completes, h]

/-- Settles O20: every one of the four is the unconditional shape, with its own target's base and link bit. -/
theorem unconditionalBranchResults : Obligations.UnconditionalBranchResults := by
  intro li s disp
  have hdisp : dispLI li = disp := dispLI_eq li
  rw [← hdisp]
  exact ⟨completes_of_unconditional false false rfl, completes_of_unconditional true false rfl,
    completes_of_unconditional false true rfl, completes_of_unconditional true true rfl⟩

end Sys2Proof.Machine
end

section
/-! SUPPORT. Add, subtract and negate (42_add_sub.md R172 to R215): every instruction is a shared sum of Laws/AddSub.lean
with its own carrying, overflow and record bits, which fix that sum's effect. -/

namespace Sys2Proof.Machine

/-- Settles O23: each mnemonic's sum in its four forms; `add` and `addc` are one sum and differ in CAADD alone. -/
theorem addFamilyResults : Obligations.AddFamilyResults := fun _ _ _ _ =>
  ⟨.sumAdd false rfl, .sumAdd false rfl, .sumAdd false rfl, .sumAdd false rfl,
    .sumAdd true rfl, .sumAdd true rfl, .sumAdd true rfl, .sumAdd true rfl,
    .sumAdde rfl, .sumAdde rfl, .sumAdde rfl, .sumAdde rfl,
    .sumAddme rfl, .sumAddme rfl, .sumAddme rfl, .sumAddme rfl,
    .sumAddze rfl, .sumAddze rfl, .sumAddze rfl, .sumAddze rfl⟩

/-- Settles O24: each mnemonic's sum of the complement of `rA` in its four forms, as the exact difference it is;
`subf` and `subfc` are one sum and differ in CAADD alone. -/
theorem subtractFamilyResults : Obligations.SubtractFamilyResults := fun _ _ _ _ =>
  ⟨.sumSubf false rfl, .sumSubf false rfl, .sumSubf false rfl, .sumSubf false rfl,
    .sumSubf true rfl, .sumSubf true rfl, .sumSubf true rfl, .sumSubf true rfl,
    .sumSubfe rfl, .sumSubfe rfl, .sumSubfe rfl, .sumSubfe rfl,
    .sumSubfme rfl, .sumSubfme rfl, .sumSubfme rfl, .sumSubfme rfl,
    .sumSubfze rfl, .sumSubfze rfl, .sumSubfze rfl, .sumSubfze rfl,
    .sumNeg rfl, .sumNeg rfl, .sumNeg rfl, .sumNeg rfl⟩

end Sys2Proof.Machine
end

section
/-! SUPPORT. The immediate adds (42_add_sub.md R216 to R220). -/

namespace Sys2Proof.Machine

/-- The sign-extended immediate (30_encoding.md R108) is the word of its signed value. -/
theorem sext32_eq_ofInt (simm : BitVec 16) : sext32 simm = BitVec.ofInt 32 simm.toInt := rfl

/-- `subfic`: the exact difference of an immediate and the register, with CA set when there is no borrow
(42_add_sub.md R220). -/
theorem ArithEffect.subtractFromImm {i : Instr} {s : State} {rD rA : Reg} (imm : Word)
    (h : exec i s = addThree ⟨true, false, false⟩ rD (~~~s.readGpr rA) imm 1#32 s) :
    ArithEffect i s rD (imm.toInt - (s.readGpr rA).toInt) (decide ((s.readGpr rA).toNat ≤ imm.toNat)) false false :=
  .of_addThree true _ _ _ h (toInt_not_add_one _ _).symm (addCarries_not_one _ _).symm

/-- Settles O25: `addi` and `addis` add to `readBase`, the others to the register itself; the exact value of each
immediate is `sext32_toInt` or `immShifted_toInt`. -/
theorem addImmediateResults : Obligations.AddImmediateResults := by
  intro rD rA simm s a base imm
  have hbase : s.readBase rA = base := rfl
  have himm : sext32 simm = imm := sext32_eq_ofInt simm
  rw [← immShifted_toInt, ← sext32_toInt, ← himm, ← hbase]
  exact ⟨.sumImm false _ _ rfl, .sumImm false _ _ rfl, .sumImm true _ _ rfl, .sumImm true _ _ rfl,
    .subtractFromImm _ rfl⟩

end Sys2Proof.Machine
end

section
/-! SUPPORT. The multiplies (43_mul_div_cmp.md R233 to R241): `mullw` and `mulli` are the exact product of
Laws/MulDivCmp.lean, and the high-word multiplies are its floor by 2^32. -/

namespace Sys2Proof.Machine

/-- `mulhw` and its record form (43_mul_div_cmp.md R237, R238). -/
theorem WordEffect.mulHighSigned {i : Instr} {s : State} {rD : Reg} {rc : Bool} {a b : Word}
    (h : exec i s = s.finishArith rc rD (highWord (signedProduct a b))) :
    WordEffect i s rD (BitVec.ofInt 32 (a.toInt * b.toInt / 4294967296)) rc :=
  .of_finishArith (highWord_signedProduct a b ▸ h)

/-- `mulhwu` and its record form (43_mul_div_cmp.md R239, R240). -/
theorem WordEffect.mulHighUnsigned {i : Instr} {s : State} {rD : Reg} {rc : Bool} {a b : Word}
    (h : exec i s = s.finishArith rc rD (highWord (unsignedProduct a b))) :
    WordEffect i s rD (BitVec.ofNat 32 (a.toNat * b.toNat / 4294967296)) rc :=
  .of_finishArith (highWord_unsignedProduct a b ▸ h)

/-- Settles O26: each mnemonic's product in its forms; the immediate of `mulli` is the word of its signed value. -/
theorem multiplyResults : Obligations.MultiplyResults := by
  intro rD rA rB simm s a b
  rw [← sext32_toInt simm]
  exact ⟨.mulLow rfl, .mulLow rfl, .mulLow rfl, .mulLow rfl, .finishLowWord rfl,
    .mulHighSigned rfl, .mulHighSigned rfl, .mulHighUnsigned rfl, .mulHighUnsigned rfl⟩

end Sys2Proof.Machine
end

section
/-! SUPPORT. The divides (43_mul_div_cmp.md R231, R242 to R249): the operands with a defined quotient, and what is left
of a divide's effect when its quotient is a free value. -/

namespace Sys2Proof.Machine

/-! ### The operands that define a quotient -/

theorem divSignedUndefined_eq_false_iff {a b : Word} :
    divSignedUndefined a b = false ↔ b ≠ 0#32 ∧ (a ≠ 0x80000000#32 ∨ b ≠ 0xFFFFFFFF#32) := by
  simp [divSignedUndefined, imp_iff_not_or]

/-- `OVDIVS` of a nonzero divisor is no draw (40_helpers.md R134). -/
theorem ovDivSigned_of_ne_zero {b : Word} (hb : b ≠ 0#32) (form : Config.DivideForm) (draws : Nat) (a : Word) :
    ovDivSigned form draws a b = divSignedUndefined a b := if_neg hb

/-- `OVDIVU` of a nonzero divisor is no draw (40_helpers.md R135). -/
theorem ovDivUnsigned_of_ne_zero {b : Word} (hb : b ≠ 0#32) (form : Config.DivideForm) (draws : Nat) (a : Word) :
    ovDivUnsigned form draws a b = false := if_neg hb

/-- `OVDIVS` of -2^31 by -1 is set, whatever the draws give (40_helpers.md R134). -/
theorem ovDivSigned_overflow (form : Config.DivideForm) (draws : Nat) :
    ovDivSigned form draws 0x80000000#32 0xFFFFFFFF#32 = true :=
  (ovDivSigned_of_ne_zero (by decide) form draws _).trans (by decide)

/-! ### A defined quotient -/

variable {i : Instr} {s : State} {form : Config.DivideForm} {rc : Bool} {rD rA rB : Reg}

/-- `divw` and its forms where the quotient is defined (43_mul_div_cmp.md R242 to R245). -/
theorem completes_divideSigned_of_defined (oe : Bool) (h : exec i s = divideSigned form oe rc rD rA rB s)
    (hdef : divSignedUndefined (s.readGpr rA) (s.readGpr rB) = false) :
    Completes i s fun t => RegEffect s t rD rc (BitVec.ofInt 32 ((s.readGpr rA).toInt.tdiv (s.readGpr rB).toInt))
      s.so (if oe then false else s.ov) s.ca := by
  obtain ⟨hb, -⟩ := divSignedUndefined_eq_false_iff.mp hdef
  have effect := divideSigned_effect form oe rc rD rA rB s
  rw [← h, ovDivSigned_of_ne_zero hb, hdef, Bool.and_false, Bool.or_false] at effect
  exact effect

/-- `divwu` and its forms where the quotient is defined (43_mul_div_cmp.md R246 to R249). -/
theorem completes_divideUnsigned_of_defined (oe : Bool) (h : exec i s = divideUnsigned form oe rc rD rA rB s)
    (hb : s.readGpr rB ≠ 0#32) :
    Completes i s fun t => RegEffect s t rD rc (BitVec.ofNat 32 ((s.readGpr rA).toNat / (s.readGpr rB).toNat))
      s.so (if oe then false else s.ov) s.ca := by
  have effect := divideUnsigned_effect form oe rc rD rA rB s
  rw [← h, ovDivUnsigned_of_ne_zero hb, beq_false_of_ne hb, Bool.and_false, Bool.or_false] at effect
  exact effect

/-! ### Any quotient -/

/-- An effect on one register, said of the value the next state holds, whatever it is. -/
theorem RegEffect.free_value {t : State} {v : Word} {so ov ca : Bool} (effect : RegEffect s t rD rc v so ov ca) :
    RegEffect s t rD rc (t.readGpr rD) so ov ca := by
  rwa [effect.result]

/-- The same of the overflow bit too: OV is the bit the next state holds, and SO is set with it. -/
theorem RegEffect.free_value_and_overflow {oe : Bool} {t : State} {v : Word} {ov : Bool}
    (effect : RegEffect s t rD rc v (s.so || (oe && ov)) (if oe then ov else s.ov) s.ca) :
    RegEffect s t rD rc (t.readGpr rD) (if oe then s.so || t.ov else s.so) (if oe then t.ov else s.ov) s.ca := by
  obtain ⟨-, hov, -⟩ := effect.xer
  have htov : t.ov = if oe then ov else s.ov := hov
  rw [htov]
  cases oe
  · simpa using effect.free_value
  · exact effect.free_value

/-- A signed divide of any operands: only its result, and OV of the overflow-recording forms, depend on them. -/
theorem completes_divideSigned (oe : Bool) (h : exec i s = divideSigned form oe rc rD rA rB s) :
    Completes i s fun t => RegEffect s t rD rc (t.readGpr rD)
      (if oe then s.so || t.ov else s.so) (if oe then t.ov else s.ov) s.ca := by
  obtain ⟨t, ht, effect⟩ := divideSigned_effect form oe rc rD rA rB s
  exact ⟨t, h.trans ht, effect.free_value_and_overflow⟩

/-- An unsigned divide of any operands, likewise. -/
theorem completes_divideUnsigned (oe : Bool) (h : exec i s = divideUnsigned form oe rc rD rA rB s) :
    Completes i s fun t => RegEffect s t rD rc (t.readGpr rD)
      (if oe then s.so || t.ov else s.so) (if oe then t.ov else s.ov) s.ca := by
  obtain ⟨t, ht, effect⟩ := divideUnsigned_effect form oe rc rD rA rB s
  exact ⟨t, h.trans ht, effect.free_value_and_overflow⟩

/-- The overflow-recording forms of `divw` for -2^31 divided by -1: OV and SO are set (43_mul_div_cmp.md R231). -/
theorem completes_divideSigned_overflow (h : exec i s = divideSigned form true rc rD rA rB s)
    (ha : s.readGpr rA = 0x80000000#32) (hb : s.readGpr rB = 0xFFFFFFFF#32) :
    Completes i s fun t => RegEffect s t rD rc (t.readGpr rD) true true s.ca := by
  obtain ⟨t, ht, effect⟩ := divideSigned_effect form true rc rD rA rB s
  rw [ha, hb, ovDivSigned_overflow, Bool.and_self, Bool.or_true] at effect
  exact ⟨t, h.trans ht, effect.free_value⟩

end Sys2Proof.Machine

namespace Sys2Proof.Machine

/-! ### The statements -/

/-- Settles O27: each mnemonic's quotient in its four forms. -/
theorem definedDivisionResults : Obligations.DefinedDivisionResults := by
  intro rD rA rB s a b hb
  refine ⟨fun hab => ?_, completes_divideUnsigned_of_defined false rfl hb,
    completes_divideUnsigned_of_defined false rfl hb, completes_divideUnsigned_of_defined true rfl hb,
    completes_divideUnsigned_of_defined true rfl hb⟩
  have hdef : divSignedUndefined a b = false := divSignedUndefined_eq_false_iff.mpr ⟨hb, hab⟩
  exact ⟨completes_divideSigned_of_defined false rfl hdef, completes_divideSigned_of_defined false rfl hdef,
    completes_divideSigned_of_defined true rfl hdef, completes_divideSigned_of_defined true rfl hdef⟩

/-- Settles O28: what a divide does for any operands is all that is stated of a zero divisor; -2^31 by -1 also fixes
OV and SO. -/
theorem undefinedDivisionCompletes : Obligations.UndefinedDivisionCompletes := fun _ _ _ _ =>
  ⟨fun _ => ⟨completes_divideSigned false rfl, completes_divideSigned false rfl, completes_divideSigned true rfl,
      completes_divideSigned true rfl, completes_divideUnsigned false rfl, completes_divideUnsigned false rfl,
      completes_divideUnsigned true rfl, completes_divideUnsigned true rfl⟩,
    fun ha hb => ⟨completes_divideSigned false rfl, completes_divideSigned false rfl,
      completes_divideSigned_overflow rfl ha hb, completes_divideSigned_overflow rfl ha hb⟩⟩

end Sys2Proof.Machine
end

section
/-! SUPPORT. The compares (43_mul_div_cmp.md R250 to R253): every one is the shared end of Laws/MulDivCmp.lean. -/

namespace Sys2Proof.Machine

/-- A zero-extended immediate has the immediate's unsigned value (30_encoding.md R109). -/
theorem zext32_toNat (v : BitVec 16) : (zext32 v).toNat = v.toNat :=
  BitVec.toNat_setWidth_of_le (by decide)

/-- Settles O29: each compare is `writeCompare` of its two words; an immediate is the word of its signed or its
unsigned value. -/
theorem compareResults : Obligations.CompareResults := by
  intro crfD l rA rB imm s a b low compared
  rw [← sext32_toInt imm, ← zext32_toNat imm]
  exact ⟨writeCompare_effect s crfD _ _, writeCompare_effect s crfD _ _, writeCompare_effect s crfD _ _,
    writeCompare_effect s crfD _ _⟩

end Sys2Proof.Machine
end

section
/-! SUPPORT. The logical instructions (44_logical.md R260 to R288): a word operation that acts bit by bit, and the shared
end `finishLogical` of every instruction of the family. -/

namespace Sys2Proof.Machine

/-! ### Word operations that act bit by bit (R260) -/

/-- Every bit of `op x y` is `f` of the same bits of `x` and `y`. -/
def ActsBitwise (op : Word → Word → Word) (f : Bool → Bool → Bool) : Prop :=
  ∀ (x y : Word) (k : Nat), k < 32 → (op x y).getLsbD k = f (x.getLsbD k) (y.getLsbD k)

theorem actsBitwise_and : ActsBitwise (fun x y => x &&& y) (fun x y => x && y) := fun _ _ _ _ => BitVec.getLsbD_and

theorem actsBitwise_or : ActsBitwise (fun x y => x ||| y) (fun x y => x || y) := fun _ _ _ _ => BitVec.getLsbD_or

theorem actsBitwise_xor : ActsBitwise (fun x y => x ^^^ y) (fun x y => x != y) := fun _ _ _ _ => BitVec.getLsbD_xor

/-- A complement below bit 32 is a complement of the bit. -/
theorem getLsbD_not_of_lt (v : Word) {k : Nat} (hk : k < 32) : (~~~v).getLsbD k = !v.getLsbD k := by
  rw [BitVec.getLsbD_not, decide_eq_true hk, Bool.true_and]

section
variable {op : Word → Word → Word} {f : Bool → Bool → Bool}

/-- The complemented result: `nand`, `nor`, `eqv`. -/
theorem ActsBitwise.complement (h : ActsBitwise op f) : ActsBitwise (fun x y => ~~~op x y) (fun x y => !f x y) :=
  fun x y k hk => by rw [getLsbD_not_of_lt _ hk, h x y k hk]

/-- The complemented second operand: `andc`, `orc`. -/
theorem ActsBitwise.complementRight (h : ActsBitwise op f) :
    ActsBitwise (fun x y => op x (~~~y)) (fun x y => f x (!y)) :=
  fun x y k hk => by rw [h x (~~~y) k hk, getLsbD_not_of_lt _ hk]

/-- Equivalence is the complement of exclusive or (R265). -/
theorem actsBitwise_eqv : ActsBitwise (fun x y => ~~~(x ^^^ y)) (fun x y => x == y) :=
  fun x y k hk => (actsBitwise_xor.complement x y k hk).trans (Bool.not_not _)

/-- The result and the effect of an instruction that ends in `finishLogical` with a bitwise operation on two words,
the second given by its bits `g`. -/
theorem ActsBitwise.wordEffect (hop : ActsBitwise op f) {i : Instr} {s : State} {rc : Bool} {rA : Reg} {x y : Word}
    {g : Nat → Bool} (hy : ∀ k, k < 32 → y.getLsbD k = g k) (h : exec i s = s.finishLogical rc rA (op x y)) :
    ∃ v : Word, (∀ k, k < 32 → v.getLsbD k = f (x.getLsbD k) (g k)) ∧ WordEffect i s rA v rc :=
  ⟨op x y, fun k hk => by rw [hop x y k hk, hy k hk], .of_finishLogical h⟩

/-- Its use for a register operand. -/
theorem ActsBitwise.registerEffect (hop : ActsBitwise op f) {i : Instr} {s : State} {rc : Bool} {rA rS rB : Reg}
    (h : exec i s = logicalReg op rc rA rS rB s) :
    ∃ v : Word, (∀ k, k < 32 → v.getLsbD k = f ((s.readGpr rS).getLsbD k) ((s.readGpr rB).getLsbD k)) ∧
      WordEffect i s rA v rc :=
  hop.wordEffect (fun _ _ => rfl) h

end

/-! ### Leading zeros (40_helpers.md R139) -/

/-- `cntlzw` and its record form: CLZ32 is the number of leading zeros. -/
theorem exists_leadingZeros_wordEffect {i : Instr} {s : State} {rc : Bool} {rA rS : Reg}
    (h : exec i s = countLeadingZeros rc rA rS s) :
    ∃ n : Nat, n ≤ 32 ∧ (∀ j, j < n → (s.readGpr rS).getLsbD (31 - j) = false) ∧
      (n < 32 → (s.readGpr rS).getLsbD (31 - n) = true) ∧ WordEffect i s rA (BitVec.ofNat 32 n) rc := by
  obtain ⟨hle, hzeros, hone⟩ := leadingZerosBelow_spec (s.readGpr rS) 32
  exact ⟨clz32 (s.readGpr rS), hle, hzeros, hone, .of_finishLogical h⟩

/-! ### The statements -/

/-- Settles O30: each mnemonic's word operation acts by its Boolean function, plain and record. -/
theorem logicalRegisterResults : Obligations.LogicalRegisterResults := by
  intro rA rS rB s bitwise
  exact ⟨actsBitwise_and.registerEffect rfl, actsBitwise_and.registerEffect rfl,
    actsBitwise_and.complementRight.registerEffect rfl, actsBitwise_and.complementRight.registerEffect rfl,
    actsBitwise_eqv.registerEffect rfl, actsBitwise_eqv.registerEffect rfl,
    actsBitwise_and.complement.registerEffect rfl, actsBitwise_and.complement.registerEffect rfl,
    actsBitwise_or.complement.registerEffect rfl, actsBitwise_or.complement.registerEffect rfl,
    actsBitwise_or.registerEffect rfl, actsBitwise_or.registerEffect rfl,
    actsBitwise_or.complementRight.registerEffect rfl, actsBitwise_or.complementRight.registerEffect rfl,
    actsBitwise_xor.registerEffect rfl, actsBitwise_xor.registerEffect rfl⟩

/-- Settles O31: the same three word operations, with the bits of the zero-extended or the shifted immediate. -/
theorem logicalImmediateResults : Obligations.LogicalImmediateResults := by
  intro rA rS uimm s bitwise
  have hlow : ∀ k, k < 32 → (zext32 uimm).getLsbD k = uimm.getLsbD k := zext32_getLsbD uimm
  have hhigh : ∀ k, k < 32 → (immShifted uimm).getLsbD k = (decide (16 ≤ k) && uimm.getLsbD (k - 16)) :=
    fun k _ => immShifted_getLsbD uimm k
  exact ⟨actsBitwise_and.wordEffect hlow rfl, actsBitwise_and.wordEffect hhigh rfl,
    actsBitwise_or.wordEffect hlow rfl, actsBitwise_or.wordEffect hhigh rfl,
    actsBitwise_xor.wordEffect hlow rfl, actsBitwise_xor.wordEffect hhigh rfl⟩

/-- Settles O32: the sign extensions as signed numbers of the low part, and the count by `leadingZerosBelow_spec`. -/
theorem extendAndCountResults : Obligations.ExtendAndCountResults := by
  intro rA rS s v
  rw [← sext32_low_byte, ← sext32_low_half]
  exact ⟨.of_finishLogical rfl, .of_finishLogical rfl, .of_finishLogical rfl, .of_finishLogical rfl,
    exists_leadingZeros_wordEffect rfl, exists_leadingZeros_wordEffect rfl⟩

end Sys2Proof.Machine
end

section
/-! SUPPORT. The shifts and rotates (45_shift_rotate.md R295 to R309): the amounts read from a register as numbers, and
what each shared shape does for any instruction that has it. -/

namespace Sys2Proof.Machine

/-! ### The amounts -/

theorem State.shiftAmount_toNat (s : State) (rB : Reg) : (s.shiftAmount rB).toNat = (s.readGpr rB).toNat % 64 :=
  BitVec.toNat_setWidth 6 (s.readGpr rB)

theorem State.rotateAmount_toNat (s : State) (rB : Reg) : (s.rotateAmount rB).toNat = (s.readGpr rB).toNat % 32 :=
  BitVec.toNat_setWidth 5 (s.readGpr rB)

section
variable {i : Instr} {s : State} {rc : Bool} {rA rS rB : Reg}

/-! ### Shifts -/

/-- `slw` and its record form (R296, R297). -/
theorem wordEffect_shiftLeft (h : exec i s = shiftLeft rc rA rS rB s) :
    WordEffect i s rA (s.readGpr rS <<< ((s.readGpr rB).toNat % 64)) rc := by
  rw [← s.shiftAmount_toNat rB, ← shiftLeftResult_eq]
  exact .of_finishLogical h

/-- `srw` and its record form (R298, R299). -/
theorem wordEffect_shiftRight (h : exec i s = shiftRight rc rA rS rB s) :
    WordEffect i s rA (s.readGpr rS >>> ((s.readGpr rB).toNat % 64)) rc := by
  rw [← s.shiftAmount_toNat rB, ← shiftRightResult_eq]
  exact .of_finishLogical h

/-- `sraw`, `srawi` and their record forms (R300 to R303), for an amount given as a number. -/
theorem completes_shiftAlgebraic {n : BitVec 6} {amount : Nat} (hn : n.toNat = amount)
    (h : exec i s = shiftAlgebraic rc rA rS n s) :
    Completes i s fun t => RegEffect s t rA rc ((s.readGpr rS).sshiftRight amount) s.so s.ov
      (decide ((s.readGpr rS).toInt < 0) && decide ((s.readGpr rS).toNat % 2 ^ amount ≠ 0)) := by
  obtain ⟨t, ht, effect⟩ := shiftAlgebraic_effect rc rA rS n s
  rw [hn] at effect
  exact ⟨t, h.trans ht, effect⟩

/-! ### Rotates -/

/-- ANDing with a mask is inserting under it into the zero word, so that `rlwinm` and `rlwnm` are `rlwimi` into 0. -/
theorem insertUnder_zero (m new : Word) : insertUnder m new 0#32 = new &&& m := by
  rw [insertUnder, BitVec.zero_and, BitVec.or_zero]

/-- The rotate shape, for an amount given as a number and a mask and an old word given by their bits. -/
theorem exists_rotated_wordEffect {n mb me : BitVec 5} {old : Word} {amount : Nat} {inMask outside : Nat → Bool}
    (hn : n.toNat = amount) (hmask : ∀ k, k < 32 → (mask mb me).getLsbD k = inMask k)
    (hold : ∀ k, k < 32 → old.getLsbD k = outside k)
    (h : exec i s = s.finishLogical rc rA (insertUnder (mask mb me) (rotl32 (s.readGpr rS) n) old)) :
    ∃ v : Word, (∀ k, k < 32 → v.getLsbD k =
        if inMask k then (s.readGpr rS).getLsbD ((k + 32 - amount) % 32) else outside k) ∧ WordEffect i s rA v rc := by
  refine ⟨_, fun k hk => ?_, .of_finishLogical h⟩
  have hamount : k + (32 - n.toNat) = k + 32 - amount := by omega
  rw [insertUnder_getLsbD _ _ _ _ hk, rotl32_getLsbD _ _ _ hk, hmask k hk, hold k hk, hamount]

/-- `rlwinm` and `rlwnm`, with their record forms (R306 to R309). -/
theorem exists_rotateAnd_wordEffect {n mb me : BitVec 5} {amount : Nat} {inMask : Nat → Bool} (hn : n.toNat = amount)
    (hmask : ∀ k, k < 32 → (mask mb me).getLsbD k = inMask k) (h : exec i s = rotateAnd rc rA rS n mb me s) :
    ∃ v : Word, (∀ k, k < 32 → v.getLsbD k =
        if inMask k then (s.readGpr rS).getLsbD ((k + 32 - amount) % 32) else false) ∧ WordEffect i s rA v rc :=
  exists_rotated_wordEffect (old := 0#32) hn hmask (fun _ _ => BitVec.getLsbD_zero)
    (by rw [h, rotateAnd, insertUnder_zero])

end

/-! ### The statements -/

/-- Settles O33: the rotate-and-mask results are shifts by the amount's number. -/
theorem logicalShiftResults : Obligations.LogicalShiftResults := fun _ _ _ _ =>
  ⟨wordEffect_shiftLeft rfl, wordEffect_shiftLeft rfl, wordEffect_shiftRight rfl, wordEffect_shiftRight rfl⟩

/-- Settles O34: `sraw` and `srawi` are one shift, by the low six bits of `rB` and by the widened immediate. -/
theorem algebraicShiftResults : Obligations.AlgebraicShiftResults := by
  intro rA rS rB sh s v shifted
  have himm : (sh.setWidth 6).toNat = sh.toNat := BitVec.toNat_setWidth_of_le (by decide)
  exact ⟨completes_shiftAlgebraic (s.shiftAmount_toNat rB) rfl, completes_shiftAlgebraic (s.shiftAmount_toNat rB) rfl,
    completes_shiftAlgebraic himm rfl, completes_shiftAlgebraic himm rfl⟩

/-- Settles O35: the mask by its bits, inserted into the zero word, or into `rA` by `rlwimi`. -/
theorem rotateAndMaskResults : Obligations.RotateAndMaskResults := by
  intro rA rS rB n mb me s inMask rotated
  have hmask : ∀ k, k < 32 → (mask mb me).getLsbD k = inMask k := mask_getLsbD mb me
  have hreg := s.rotateAmount_toNat rB
  exact ⟨exists_rotateAnd_wordEffect rfl hmask rfl, exists_rotateAnd_wordEffect rfl hmask rfl,
    exists_rotateAnd_wordEffect hreg hmask rfl, exists_rotateAnd_wordEffect hreg hmask rfl,
    exists_rotated_wordEffect rfl hmask (fun _ _ => rfl) rfl, exists_rotated_wordEffect rfl hmask (fun _ _ => rfl) rfl⟩

end Sys2Proof.Machine
end

section
/-! SUPPORT. The condition-register instructions (46_cr_logical.md R315 to R324) and the moves of CR and of the XER
flags (49_move_system.md R388 to R390). -/

namespace Sys2Proof.Machine

/-! ### The CR logical pattern -/

/-- The eight mnemonics differ in the Boolean function alone. -/
theorem completes_crLogical {i : Instr} {s : State} {crbD crbA crbB : CrBit} (op : Bool → Bool → Bool)
    (h : exec i s = crLogical op crbD crbA crbB s) :
    Completes i s fun t =>
      t.cr.getLsbD (31 - crbD.toNat) = op (s.cr.getLsbD (31 - crbA.toNat)) (s.cr.getLsbD (31 - crbB.toNat)) ∧
        CrEffect s t (fun k => k = 31 - crbD.toNat) ∧ t.xer = s.xer := by
  obtain ⟨t, ht, effect⟩ := writeCrBit_effect s crbD (op (s.crBit crbA) (s.crBit crbB))
  exact ⟨t, h.trans ht, effect⟩

/-- The complement of the exclusive or is equality. -/
theorem exec_creqv (crbD crbA crbB : CrBit) (s : State) :
    exec (.creqv crbD crbA crbB) s = crLogical (fun a b => a == b) crbD crbA crbB s := by
  have heqv : (fun a b : Bool => !(a ^^ b)) = fun a b => a == b := funext₂ fun a b => Bool.not_not (a == b)
  rw [← heqv]
  rfl

/-! ### Moves into CR -/

/-- The frame of an instruction that writes CR, XER and `pc` alone. -/
theorem CrEffect.of_crKept {s t : State} {written : Nat → Prop}
    (he : t = { s with cr := t.cr, xer := t.xer, pc := s.pc + 4#32 }) (hcr : CrKept s t written) :
    CrEffect s t written := by
  refine ⟨hcr, fun r _ => ?_, ?_, ?_, .of_eq ?_⟩ <;> rw [he]
  · rfl
  · rfl
  · exact ⟨rfl, rfl, rfl, rfl, rfl, rfl, rfl, rfl⟩

/-- `mcrf` and `mcrxr` write one CR field, of which the bits are given, and leave a given XER. -/
theorem completes_writeCrField {i : Instr} {s : State} {n : CrField} {v : BitVec 4} {xer : Word} {bits : Nat → Bool}
    (hv : ∀ k, k < 4 → v.getLsbD k = bits k) (h : exec i s = ((s.writeCrField n v).setXer xer).complete) :
    Completes i s fun t =>
      (∀ k, k < 4 → t.cr.getLsbD (28 - 4 * n.toNat + k) = bits k) ∧
        CrEffect s t (fun k => 28 - 4 * n.toNat ≤ k ∧ k < 28 - 4 * n.toNat + 4) ∧ t.xer = xer := by
  obtain ⟨hfield, hkept⟩ := writeCrField_cr s n v
  exact ⟨_, h, fun k hk => (hfield k hk).trans (hv k hk), .of_crKept rfl hkept, rfl⟩

/-- XER bits 31 to 28, bit by bit (R390). -/
theorem xerFlags_getLsbD (x : Word) (k : Nat) (hk : k < 4) :
    ((x >>> 28).setWidth 4).getLsbD k = x.getLsbD (28 + k) := by
  simp only [BitVec.getLsbD_setWidth, BitVec.getLsbD_ushiftRight, hk, decide_true, Bool.true_and]

theorem getLsbD_0x1FFFFFFF : ∀ k, k < 32 → (0x1FFFFFFF#32).getLsbD k = decide (k < 29) := by decide

/-- What `mcrxr` leaves of XER: SO, OV and CA are the bits outside the mask (R390). -/
theorem XerBecomes.of_flagsCleared {s t : State} (h : t.xer = s.xer &&& 0x1FFFFFFF#32) :
    XerBecomes s t false false false := by
  have hbit : ∀ k, k < 32 → t.xer.getLsbD k = (s.xer.getLsbD k && decide (k < 29)) := fun k hk => by
    rw [h, BitVec.getLsbD_and, getLsbD_0x1FFFFFFF k hk]
  refine ⟨(hbit 31 (by decide)).trans (Bool.and_false _), (hbit 30 (by decide)).trans (Bool.and_false _),
    (hbit 29 (by decide)).trans (Bool.and_false _), fun k hk => ?_⟩
  rw [hbit k (by omega), decide_eq_true hk, Bool.and_true]

/-- `mtcrf`: CR bit `k` is replaced when CRM bit `k / 4` is set (R389, 30_encoding.md R114). -/
theorem completes_mtcrf (crm : BitVec 8) (rS : Reg) (s : State) :
    Completes (.mtcrf crm rS) s fun t =>
      (∀ k, k < 32 → crm.getLsbD (k / 4) = true → t.cr.getLsbD k = (s.readGpr rS).getLsbD k) ∧
        CrEffect s t (fun k => crm.getLsbD (k / 4) = true) ∧ t.xer = s.xer := by
  have hbit : ∀ k, k < 32 → (insertUnder (crmMask crm) (s.readGpr rS) s.cr).getLsbD k =
      if crm.getLsbD (k / 4) then (s.readGpr rS).getLsbD k else s.cr.getLsbD k := fun k hk => by
    rw [insertUnder_getLsbD _ _ _ _ hk, crmMask_getLsbD crm k hk]
  exact ⟨_, rfl, fun k hk hsel => (hbit k hk).trans (if_pos hsel),
    .of_crKept rfl fun k hk hsel => (hbit k hk).trans (if_neg hsel), rfl⟩

/-! ### The statements -/

/-- Settles O42: every one of the eight is the CR logical pattern, with its own Boolean function. -/
theorem crLogicalResults : Obligations.CrLogicalResults := fun crbD crbA crbB s =>
  ⟨completes_crLogical (fun a b => a && b) rfl, completes_crLogical (fun a b => a && !b) rfl,
    completes_crLogical (fun a b => a == b) (exec_creqv crbD crbA crbB s),
    completes_crLogical (fun a b => !(a && b)) rfl, completes_crLogical (fun a b => !(a || b)) rfl,
    completes_crLogical (fun a b => a || b) rfl, completes_crLogical (fun a b => a || !b) rfl,
    completes_crLogical (fun a b => a != b) rfl⟩

/-- Settles O43: two moves write one CR field, `mfcr` one register, and `mtcrf` the CR bits under its mask. -/
theorem crMoveResults : Obligations.CrMoveResults := by
  intro crfD crfS rD rS crm s low
  refine ⟨completes_writeCrField (s.crField_getLsbD crfS) rfl, .of_finishArith rfl, completes_mtcrf crm rS s, ?mcrxr⟩
  case mcrxr =>
    obtain ⟨t, ht, hfield, effect, hxer⟩ := completes_writeCrField (i := .mcrxr crfD) (xerFlags_getLsbD s.xer) rfl
    exact ⟨t, ht, hfield, effect, .of_flagsCleared hxer⟩

end Sys2Proof.Machine
end

section
/-! SUPPORT. The step and its outcomes (60_exceptions.md R400 to R403, R410), the reset (70_reset_and_hazards.md R430, R431) and
the system call (49_move_system.md R391). -/

namespace Sys2Proof.Machine

variable {i : Instr} {s t : State}

/-! ### The latch -/

/-- Of the six shapes only the stop touches the latch. -/
theorem Shape.fatal_cases (h : Shape i s t) :
    t.fatal = s.fatal ∨
      ∃ n r, sprOf n = none ∧ (i = .mfspr r n ∨ i = .mtspr n r) ∧ FatalStopped s t .spr := by
  cases h with
  | computes hc => exact .inl hc.fatal
  | mcrxr _ _ hc => exact .inl hc.fatal
  | branches hb => exact .inl (by rw [hb.rest])
  | stores _ hst => exact .inl hst.fatal
  | writesSpr _ _ _ _ _ ht => exact .inl (by rw [ht, State.setPc_fatal, State.writeSpr_fatal])
  | stops n r hnone hi ht => exact .inr ⟨n, r, hnone, hi.symm, ht⟩

/-- A number `SPR_MAP` does not list is none of the seven it lists. -/
theorem not_mem_of_sprOf_eq_none {n : Nat} (h : sprOf n = none) : n ∉ [8, 9, 256, 260, 261, 262, 263] := by
  intro hmem
  obtain ⟨x, rfl⟩ := Spr.exists_number_eq hmem
  simp at h

theorem FatalStopped.fatal {c : FatalCause} (h : FatalStopped s t c) : t.fatal = some c := by
  rw [h]

/-- Settles O11: a step of a running core that leaves the latch set is the undecoded word, or the one shape of an
instruction that touches the latch. The cause is the one the new state holds. -/
theorem fatalStopCauses : Obligations.FatalStopCauses := by
  intro s t c hrun hstep hfatal
  rcases step_next_cases hstep with ⟨_, hhalt, -⟩ | ⟨e, -, -, hbad, hstop⟩ | ⟨i, -, -, hdec, hexec⟩
  · simp [hrun] at hhalt
  · have hstopped : FatalStopped s t .undecoded := hstop
    obtain rfl : c = .undecoded := Option.some.inj (hfatal.symm.trans hstopped.fatal)
    exact ⟨hstopped, .inl ⟨rfl, e, hbad⟩⟩
  · rcases (shape_of_exec hexec).fatal_cases with hkept | ⟨n, r, hnone, hi, hstopped⟩
    · simp [hfatal, hrun] at hkept
    · obtain rfl : c = .spr := Option.some.inj (hfatal.symm.trans hstopped.fatal)
      refine ⟨hstopped, .inr ⟨rfl, n, r, not_mem_of_sprOf_eq_none hnone, ?_⟩⟩
      rwa [hdec, Except.ok.injEq, Except.ok.injEq]

/-! ### The outcomes of a step -/

/-- Of the four cases of a step, a set latch leaves only the first. -/
theorem step_eq_self {c : FatalCause} (h : s.fatal = some c) : step s = .next s := by
  rcases step_cases s with ⟨_, -, hstep⟩ | ⟨hrun, -⟩ | ⟨_, hrun, -⟩ | ⟨_, hrun, -⟩
  · exact hstep
  all_goals simp [h] at hrun

/-- Of the four cases of a step, a clear latch and a misaligned `pc` leave only the second. -/
theorem step_eq_refused (hrun : s.fatal = none) (hpc : s.pc.toNat % 4 ≠ 0) : step s = .refused .misalignedPc := by
  have hmis : s.pcAligned ≠ true := mt s.pcAligned_iff.mp hpc
  rcases step_cases s with ⟨_, hhalt, -⟩ | ⟨-, -, hstep⟩ | ⟨_, -, halign, -⟩ | ⟨_, -, halign, -⟩
  · simp [hrun] at hhalt
  · exact hstep
  · exact absurd halign hmis
  · exact absurd halign hmis

/-- Three of the four cases of a step answer a next state, the last because every instruction has a shape. -/
theorem step_completes (h : s.fatal ≠ none ∨ s.pcAligned = true) : ∃ t, step s = .next t := by
  rcases step_cases s with ⟨_, -, hstep⟩ | ⟨hrun, hmis, -⟩ | ⟨_, -, -, -, hstep⟩ | ⟨i, -, -, -, hstep⟩
  · exact ⟨s, hstep⟩
  · simp [hrun, hmis] at h
  · exact ⟨_, hstep⟩
  · obtain ⟨t, hexec, -⟩ := exec_shape i s
    exact ⟨t, hstep.trans hexec⟩

/-- Settles O10: the halted core, the undecoded word and every instruction answer a next state; a misaligned `pc` is
refused. -/
theorem stepOutcomes : Obligations.StepOutcomes := fun s =>
  ⟨fun h => step_completes (h.imp_right s.pcAligned_iff.mpr), step_eq_refused⟩

/-- Settles O8: a set latch leaves only the first case of a step. -/
theorem haltedCoreChangesNothing : Obligations.HaltedCoreChangesNothing := fun _ _ => step_eq_self

/-! ### The reset -/

/-- Settles O13: `RESET_PC` is 0 and a memory without cells is in canonical form. -/
theorem resetStateMeetsInvariant : Obligations.ResetStateMeetsInvariant :=
  ⟨State.reset.inv_iff.mpr ⟨by decide, by decide⟩, rfl⟩

/-- Settles O14: the launch copies its parameters field by field. -/
theorem launchFollowsParameters : Obligations.LaunchFollowsParameters :=
  ⟨fun _ _ => ⟨rfl, rfl, rfl, rfl, rfl, rfl, rfl, rfl, rfl, rfl, rfl, fun _ => rfl, fun _ => rfl⟩, rfl⟩

/-! ### The system call -/

/-- The event is raised by the three conditions under which a step executes `sc`. -/
theorem State.syscallEvent_iff (s : State) :
    s.syscallEvent = true ↔ s.fatal = none ∧ s.pcAligned = true ∧ decodeWord s.fetch = .ok .sc := by
  unfold State.syscallEvent
  split
  case h_1 hrun hsc => simp [hrun, hsc]
  case h_2 hother => simpa using fun hrun _ hsc => hother hrun hsc

/-- Settles O46: `sc` is the advance of `pc` alone, and the event is `State.syscallEvent_iff`. -/
theorem systemCallOnlySignals : Obligations.SystemCallOnlySignals := by
  intro s
  refine ⟨⟨_, rfl, rfl⟩, ?_⟩
  rw [s.syscallEvent_iff, s.pcAligned_iff]

end Sys2Proof.Machine
end

section
/-! SUPPORT. Effective addresses and loads (47_load.md R330 to R353): the values the loads read, as numbers, and the
registers the multiple and string loads write. -/

namespace Sys2Proof.Machine

/-! ### Effective addresses (47_load.md R330) -/

/-- The base as a number; the test is on the register's number. -/
theorem State.readBase_eq_ofNat (s : State) (r : Reg) :
    s.readBase r = BitVec.ofNat 32 (if r.toNat = 0 then 0 else (s.readGpr r).toNat) := by
  rw [State.readBase]
  by_cases h : r = 0#5
  · simp [h]
  · have hnum : r.toNat ≠ 0 := fun e => h (BitVec.eq_of_toNat_eq e)
    rw [if_neg h, if_neg hnum, BitVec.ofNat_toNat, BitVec.setWidth_eq]

theorem State.eaD_eq (s : State) (rA : Reg) (d : BitVec 16) :
    s.eaD rA d = BitVec.ofInt 32 ((if rA.toNat = 0 then 0 else ((s.readGpr rA).toNat : Int)) + d.toInt) := by
  rw [State.eaD, s.readBase_eq_ofNat, sext32_eq_ofInt, BitVec.ofInt_add, ← BitVec.ofInt_natCast, Nat.cast_ite,
    Nat.cast_zero]

theorem State.eaX_eq (s : State) (rA rB : Reg) :
    s.eaX rA rB = BitVec.ofNat 32 ((if rA.toNat = 0 then 0 else (s.readGpr rA).toNat) + (s.readGpr rB).toNat) := by
  rw [State.eaX, s.readBase_eq_ofNat, BitVec.ofNat_add, BitVec.ofNat_toNat _ (s.readGpr rB), BitVec.setWidth_eq]

theorem State.eaUX_eq (s : State) (rA rB : Reg) :
    s.eaUX rA rB = BitVec.ofNat 32 ((s.readGpr rA).toNat + (s.readGpr rB).toNat) := by
  rw [State.eaUX, BitVec.ofNat_add, BitVec.ofNat_toNat, BitVec.ofNat_toNat, BitVec.setWidth_eq, BitVec.setWidth_eq]

/-- Settles O47: each address is the sum of its parts as numbers. -/
theorem effectiveAddresses : Obligations.EffectiveAddresses := fun s rA rB d =>
  ⟨s.eaD_eq rA d, s.eaX_eq rA rB, s.eaUX_eq rA rB⟩

/-! ### The values the loads read -/

theorem zext32_eq_ofNat {w : Nat} (v : BitVec w) : zext32 v = BitVec.ofNat 32 v.toNat := (BitVec.ofNat_toNat 32 v).symm

theorem State.loadByte_eq (s : State) (e : Word) : s.loadByte e = BitVec.ofNat 32 (s.mem.readByte e).toNat :=
  zext32_eq_ofNat _

theorem State.loadHalf_eq (s : State) (e : Word) :
    s.loadHalf e = BitVec.ofNat 32 (256 * (s.mem.readByte e).toNat + (s.mem.readByte (e + 1#32)).toNat) := by
  rw [State.loadHalf, zext32_eq_ofNat, Memory.readHalf_toNat]

/-- The sign of a halfword is the sign of its first byte. -/
theorem State.loadHalfAlgebraic_eq (s : State) (e : Word) :
    s.loadHalfAlgebraic e = BitVec.ofInt 32
      (if (s.mem.readByte e).toNat < 128 then 256 * (s.mem.readByte e).toNat + (s.mem.readByte (e + 1#32)).toNat
        else 256 * ((s.mem.readByte e).toNat : Int) + (s.mem.readByte (e + 1#32)).toNat - 65536) := by
  have hlow := (s.mem.readByte (e + 1#32)).isLt
  rw [State.loadHalfAlgebraic, sext32_eq_ofInt, BitVec.toInt_eq_toNat_cond, Memory.readHalf_toNat]
  congr 1
  split_ifs <;> omega

theorem Memory.zext32_readHalfRev (m : Memory) (e : Word) :
    zext32 (m.readHalfRev e) = BitVec.ofNat 32 ((m.readByte e).toNat + 256 * (m.readByte (e + 1#32)).toNat) := by
  rw [zext32_eq_ofNat, Memory.readHalfRev_toNat]

/-! ### The loads of one value -/

section
variable {i : Instr} {s : State} {rD rA : Reg} {ea v w : Word}

theorem completes_loadPlain (hv : v = w) (h : exec i s = loadPlain rD v s) :
    Completes i s fun t => t.readGpr rD = w ∧ LoadFrame s t (· = rD) := by
  obtain ⟨t, hnext, hload⟩ := loadPlain_effect s rD v
  exact ⟨t, h.trans hnext, hv ▸ hload⟩

theorem completes_loadUpdate (hv : v = w) (h : exec i s = loadUpdate rD rA v ea s) :
    Completes i s fun t => t.readGpr rA = ea ∧ (rD ≠ rA → t.readGpr rD = w) ∧
      LoadFrame s t (fun r => r = rD ∨ r = rA) := by
  obtain ⟨t, hnext, hload⟩ := loadUpdate_effect s rD rA v ea
  exact ⟨t, h.trans hnext, hv ▸ hload⟩

end

/-- Settles O50: every form is the load pattern of R333 with its own address, and the value read as a number. -/
theorem loadResults : Obligations.LoadResults := fun _ _ _ _ s =>
  ⟨completes_loadPlain (s.loadByte_eq _) rfl, completes_loadPlain (s.loadByte_eq _) rfl,
    completes_loadPlain (s.loadHalf_eq _) rfl, completes_loadPlain (s.loadHalf_eq _) rfl,
    completes_loadPlain (s.loadHalfAlgebraic_eq _) rfl, completes_loadPlain (s.loadHalfAlgebraic_eq _) rfl,
    completes_loadPlain (s.mem.readWord_eq _) rfl, completes_loadPlain (s.mem.readWord_eq _) rfl,
    completes_loadPlain (s.mem.zext32_readHalfRev _) rfl, completes_loadPlain (s.mem.readWordRev_eq _) rfl⟩

/-- Settles O51: every form is the update pattern of R331, in which the address is written last. -/
theorem loadUpdateResults : Obligations.LoadUpdateResults := fun _ _ _ _ s =>
  ⟨completes_loadUpdate (s.loadByte_eq _) rfl, completes_loadUpdate (s.loadByte_eq _) rfl,
    completes_loadUpdate (s.loadHalf_eq _) rfl, completes_loadUpdate (s.loadHalf_eq _) rfl,
    completes_loadUpdate (s.loadHalfAlgebraic_eq _) rfl, completes_loadUpdate (s.loadHalfAlgebraic_eq _) rfl,
    completes_loadUpdate (s.mem.readWord_eq _) rfl, completes_loadUpdate (s.mem.readWord_eq _) rfl⟩

/-! ### Multiple and string loads -/

/-- The frame of a load that has written general registers only before it completes. -/
theorem LoadFrame.of_gpr {s s' : State} {written : Reg → Prop} (he : s' = { s with gpr := s'.gpr })
    (hg : GprsKept s s' written) : LoadFrame s (s'.setPc s'.nextPc) written := by
  refine ⟨hg, ?_, ?_, ?_, ?_, .of_eq ?_⟩ <;> rw [he]
  · rfl
  · rfl
  · rfl
  · exact ⟨rfl, rfl, rfl, rfl, rfl, rfl, rfl, rfl⟩
  · rfl

theorem reg_add_toNat (r : Reg) {k : Nat} (h : r.toNat + k < 32) : (r + BitVec.ofNat 5 k).toNat = r.toNat + k := by
  rw [BitVec.toNat_add, BitVec.toNat_ofNat]
  omega

/-- Settles O52: `loadMultiple_readGpr` says which registers the loop writes and with which words. -/
theorem loadMultipleResult : Obligations.LoadMultipleResult := by
  intro rD rA d s ea
  have hread := loadMultiple_readGpr (32 - rD.toNat) ea rD s (by omega)
  refine ⟨_, rfl, fun k hk => ?loaded, .of_gpr (loadMultiple_frame _ _ _ _) fun x hx => ?kept⟩
  case loaded =>
    have hnum := reg_add_toNat rD hk
    rw [State.setPc_readGpr, hread, if_pos (by omega), hnum, Nat.add_sub_cancel_left]
  case kept => rw [hread, if_neg fun h => hx h.1]

theorem State.tbc_eq (s : State) : s.tbc = s.xer.toNat % 128 := BitVec.toNat_setWidth 7 s.xer

/-- Register `k` of a string load, from `loadString_byteOf` started at byte 0 of the string: cleared, and its bytes
loaded as far as the string goes; kept if it is skipped or beyond the string. -/
theorem loadString_register (rD rA : Reg) (ea : Word) {n k : Nat} (s : State) (hn : n ≤ 128) (hk : k < 32) :
    let r := rD + BitVec.ofNat 5 k
    let t := loadString rA (stringFinal rD n) n rD 0 ea s
    if 4 * k < n ∧ ¬ (r = rA ∧ 4 * k + 4 < n) then
      ∀ j, j < 4 → byteOf (t.readGpr r) j =
        if 4 * k + j < n then s.mem.readByte (ea + BitVec.ofNat 32 (4 * k + j)) else 0#8
    else t.readGpr r = s.readGpr r := by
  intro r t
  have hbyte : ∀ j, j < 4 → byteOf (t.readGpr r) j =
      if stringSkips r rA (stringFinal rD n) = true then byteOf (s.readGpr r) j
      else if 4 * k + j < n then s.mem.readByte (ea + BitVec.ofNat 32 (4 * k + j))
      else if 4 * k < n then 0#8 else byteOf (s.readGpr r) j := fun j hj => by
    simpa using loadString_byteOf rA (stringFinal rD n) rD ea n 0 s (by omega) k j hk hj
  by_cases hreach : 4 * k < n
  · have hskip := stringSkips_iff rD rA n k hreach hn
    by_cases hbase : r = rA ∧ 4 * k + 4 < n
    · rw [if_neg fun h => h.2 hbase]
      exact eq_of_byteOf_eq fun j hj => by rw [hbyte j hj, if_pos (hskip.mpr hbase)]
    · rw [if_pos ⟨hreach, hbase⟩]
      intro j hj
      rw [hbyte j hj, if_neg (mt hskip.mp hbase), if_pos hreach]
  · rw [if_neg fun h => hreach h.1]
    refine eq_of_byteOf_eq fun j hj => ?_
    rw [hbyte j hj, if_neg (show ¬ 4 * k + j < n by omega), if_neg hreach, ite_self]

/-- Settles O53: both forms are `STRING_LOAD` (R332), and `loadString_register` says what each register receives. -/
theorem stringLoadResults : Obligations.StringLoadResults := by
  intro rD rA rB n s loaded
  have hloaded : ∀ i ea n, n ≤ 128 → exec i s = stringLoad rD rA ea n s → loaded i ea n := fun i ea n hn hexec =>
    ⟨_, hexec, fun k hk => loadString_register rD rA ea s hn hk,
      .of_gpr (loadString_frame _ _ _ _ _ _ _) fun _ h => absurd trivial h⟩
  refine ⟨fun _ hn => hloaded _ _ _ (by omega) rfl, ?lswx⟩
  case lswx =>
    rw [← s.tbc_eq]
    exact hloaded _ _ _ (by rw [s.tbc_eq]; omega) rfl

end Sys2Proof.Machine
end

section
/-! SUPPORT. The stores (48_store.md R360 to R377): which bytes of memory each width writes, and the multiple and string
stores. -/

namespace Sys2Proof.Machine

/-! ### The bytes of one store -/

/-- Memory `m` is the memory of `s` after a store of `n` bytes at `ea`: each implemented byte of the access is
`byte j` modulo 256, and every other byte is as before (20_memory.md R63, R66, R68). -/
structure StoresBytes (s : State) (m : Memory) (ea : Word) (n : Nat) (byte : Nat → Nat) : Prop where
  stored : ∀ j, j < n → s.mem.implements (ea + BitVec.ofNat 32 j) = true →
    m.readByte (ea + BitVec.ofNat 32 j) = BitVec.ofNat 8 (byte j)
  kept : MemKept s (s.setMem m) (InAccess ea n)

namespace StoresBytes

variable (s : State) (rS : Reg) (ea : Word)

theorem byte : StoresBytes s (s.storeByte rS ea) ea 1 (fun j => (s.readGpr rS).toNat / 256 ^ (0 - j)) := by
  refine ⟨fun j hj himp => ?_, .of_byte s ea _⟩
  obtain rfl : j = 0 := by omega
  rw [BitVec.add_zero] at himp ⊢
  rw [State.storeByte, Memory.readByte_writeByte, if_pos ⟨rfl, himp⟩, byteOf_eq _ 3 (by decide)]

theorem half : StoresBytes s (s.storeHalf rS ea) ea 2 (fun j => (s.readGpr rS).toNat / 256 ^ (1 - j)) := by
  refine ⟨fun j hj himp => ?_, .of_half s ea _⟩
  rw [State.storeHalf, s.mem.readByte_writeHalf_in ea _ j hj himp, byteOf_eq _ _ (by omega),
    show 3 - (2 + j) = 1 - j by omega]

theorem word : StoresBytes s (s.storeWord rS ea) ea 4 (fun j => (s.readGpr rS).toNat / 256 ^ (3 - j)) := by
  refine ⟨fun j hj himp => ?_, .of_word s ea _⟩
  rw [State.storeWord, s.mem.readByte_writeWord_in ea _ j hj himp, byteOf_eq _ j hj]

theorem halfRev :
    StoresBytes s (s.mem.writeHalfRev ea (s.readGpr rS)) ea 2 (fun j => (s.readGpr rS).toNat / 256 ^ j) := by
  refine ⟨fun j hj himp => ?_, .of_halfRev s ea _⟩
  rw [s.mem.readByte_writeHalfRev_in ea _ j hj himp, byteOf_eq _ _ (by omega), show 3 - (3 - j) = j by omega]

theorem wordRev :
    StoresBytes s (s.mem.writeWordRev ea (s.readGpr rS)) ea 4 (fun j => (s.readGpr rS).toNat / 256 ^ j) := by
  refine ⟨fun j hj himp => ?_, .of_wordRev s ea _⟩
  rw [s.mem.readByte_writeWordRev_in ea _ j hj himp, byteOf_eq _ _ (by omega), show 3 - (3 - j) = j by omega]

end StoresBytes

section
variable {i : Instr} {s : State} {m : Memory} {rA : Reg} {ea : Word} {n : Nat} {byte : Nat → Nat}

theorem completes_storePlain (hm : StoresBytes s m ea n byte) (h : exec i s = storePlain m s) :
    Completes i s fun t =>
      (∀ j, j < n → s.mem.implements (ea + BitVec.ofNat 32 j) = true →
        t.mem.readByte (ea + BitVec.ofNat 32 j) = BitVec.ofNat 8 (byte j)) ∧
      StoreFrame s t NoGpr (InAccess ea n) := by
  obtain ⟨t, hnext, rfl, hframe⟩ := storePlain_effect s m _ hm.kept
  exact ⟨t, h.trans hnext, hm.stored, hframe⟩

theorem completes_storeUpdate (hm : StoresBytes s m ea n byte) (h : exec i s = storeUpdate m rA ea s) :
    Completes i s fun t =>
      (∀ j, j < n → s.mem.implements (ea + BitVec.ofNat 32 j) = true →
        t.mem.readByte (ea + BitVec.ofNat 32 j) = BitVec.ofNat 8 (byte j)) ∧
      t.readGpr rA = ea ∧ StoreFrame s t (· = rA) (InAccess ea n) := by
  obtain ⟨t, hnext, rfl, hbase, hframe⟩ := storeUpdate_effect s m rA ea _ hm.kept
  exact ⟨t, h.trans hnext, hm.stored, hbase, hframe⟩

end

/-- Settles O54: every form is the store pattern of R360 with its own address, width and byte order. -/
theorem storeResults : Obligations.StoreResults := fun rS _ _ _ s =>
  ⟨completes_storePlain (.byte s rS _) rfl, completes_storePlain (.byte s rS _) rfl,
    completes_storePlain (.half s rS _) rfl, completes_storePlain (.half s rS _) rfl,
    completes_storePlain (.word s rS _) rfl, completes_storePlain (.word s rS _) rfl,
    completes_storePlain (.halfRev s rS _) rfl, completes_storePlain (.wordRev s rS _) rfl⟩

/-- Settles O55: every form is the update pattern of R331 after a store of the old `rS`. -/
theorem storeUpdateResults : Obligations.StoreUpdateResults := fun rS _ _ _ s =>
  ⟨completes_storeUpdate (.byte s rS _) rfl, completes_storeUpdate (.byte s rS _) rfl,
    completes_storeUpdate (.half s rS _) rfl, completes_storeUpdate (.half s rS _) rfl,
    completes_storeUpdate (.word s rS _) rfl, completes_storeUpdate (.word s rS _) rfl⟩

/-! ### Multiple and string stores -/

/-- Settles O56: `storeMultiple_readByte` says which bytes the loop writes and with which register's bytes. -/
theorem storeMultipleResult : Obligations.StoreMultipleResult := by
  intro rS rA d s ea
  obtain ⟨hbase, hsize, hin, hout⟩ := storeMultiple_readByte s (32 - rS.toNat) ea rS s.mem (by omega)
  obtain ⟨t, hnext, hmem, hframe⟩ :=
    storePlain_effect s _ (InAccess ea (4 * (32 - rS.toNat))) ⟨hbase, hsize, hout⟩
  refine ⟨t, hnext, fun k j hk hj himp => ?_, hframe⟩
  rw [hmem, hin k j (by omega) hj himp, byteOf_eq _ j hj]

/-- The skip rule for byte `j` of a string, by the register that byte belongs to. -/
theorem not_stringSkips_iff (rS rA : Reg) {n j : Nat} (hj : j < n) (hn : n ≤ 128) :
    stringSkips (rS + BitVec.ofNat 5 (j / 4)) rA (stringFinal rS n) = false ↔
      ¬ (rS + BitVec.ofNat 5 (j / 4) = rA ∧ 4 * (j / 4) + 4 < n) := by
  rw [← stringSkips_iff rS rA n (j / 4) (by omega) hn, Bool.not_eq_true]

/-- The string store of R332, from `storeString_readByte` started at byte 0 of the string: each byte that is not
skipped is stored where implemented, and no other byte of memory changes. -/
theorem storeString_memory (rS rA : Reg) (ea : Word) {n : Nat} (s : State) (hn : n ≤ 128) :
    let source : Nat → Reg := fun j => rS + BitVec.ofNat 5 (j / 4)
    let skipped : Nat → Prop := fun j => source j = rA ∧ 4 * (j / 4) + 4 < n
    let m := storeString s rA (stringFinal rS n) n rS 0 ea s.mem
    (∀ j, j < n → ¬ skipped j → s.mem.implements (ea + BitVec.ofNat 32 j) = true →
      m.readByte (ea + BitVec.ofNat 32 j) = BitVec.ofNat 8 ((s.readGpr (source j)).toNat / 256 ^ (3 - j % 4))) ∧
    MemKept s (s.setMem m) (fun a => ∃ j, j < n ∧ ¬ skipped j ∧ a = ea + BitVec.ofNat 32 j) := by
  intro source skipped m
  have hskip : ∀ j, j < n → (stringSkips (source j) rA (stringFinal rS n) = false ↔ ¬ skipped j) :=
    fun j hj => not_stringSkips_iff rS rA hj hn
  have hloop := storeString_readByte s rA (stringFinal rS n) rS ea n 0 s.mem (by omega)
  simp only [Nat.zero_div, Nat.zero_mod, BitVec.add_zero, Nat.zero_add, Nat.zero_le, true_and, forall_const] at hloop
  obtain ⟨hbase, hsize, hin, hout⟩ := hloop
  refine ⟨fun j hj hns himp => ?stored, hbase, hsize, fun a ha => hout a ?kept⟩
  case stored => rw [hin j hj ((hskip j hj).mpr hns) himp, byteOf_eq _ _ (Nat.mod_lt j (by decide))]
  case kept => exact fun ⟨j, hj, hns, e⟩ => ha ⟨j, hj, (hskip j hj).mp hns, e⟩

/-- Settles O57: both forms are `STRING_STORE` (R332), and `storeString_memory` says what each byte receives. -/
theorem stringStoreResults : Obligations.StringStoreResults := by
  intro rS rA rB n s stored
  have hstored : ∀ i ea n, n ≤ 128 → exec i s = stringStore rS rA ea n s → stored i ea n := by
    intro i ea n hn hexec
    obtain ⟨hin, hkept⟩ := storeString_memory rS rA ea s hn
    obtain ⟨t, hnext, hmem, hframe⟩ := storePlain_effect s _ _ hkept
    rw [← hmem] at hin
    exact ⟨t, hexec.trans hnext, hin, hframe⟩
  refine ⟨fun _ hn => hstored _ _ _ (by omega) rfl, ?stswx⟩
  case stswx =>
    rw [← s.tbc_eq]
    exact hstored _ _ _ (by rw [s.tbc_eq]; omega) rfl

end Sys2Proof.Machine
end
